-- ==== Sys2Proof/Word.lean ====
section
/-! DEFINITION. The words of the router: bytes of a host link, the 7-bit channel widths, and when an
integer fits a two's complement word. -/

namespace Sys2Proof

/-- A byte of a byte-serial host link (R24); the router itself has none. -/
abbrev Byte := BitVec 8

/-- A channel pulse width: `DUTY_W = 7` bits, unsigned whole percent (R8, R11, R37). -/
abbrev Duty := BitVec 7

/-- The integer `v` is the two's complement value of some `W`-bit word (R39). -/
def fits (W : Nat) (v : Int) : Bool :=
  decide (-((2 ^ (W - 1) : Nat) : Int) ≤ v) && decide (v ≤ ((2 ^ (W - 1) : Nat) : Int) - 1)

end Sys2Proof
end

