-- ==== Sys2Proof/Config.lean ====
section
/-! DEFINITION. What is fixed when an instance is constructed (00_scope §4, R6), and the free values: constants
without a body, for what the spec leaves at any value. -/

namespace Sys2Proof

/-- The two legs of the H-bridge, and so the two channels (R23, R54): A is the forward leg. -/
inductive Leg where
  | a
  | b
deriving DecidableEq, Repr

/-- `PWM_UPDATE`: when an external channel applies a new width (R55, D18). -/
inductive PwmUpdate where
  | immediate
  | periodBoundary
deriving DecidableEq, Repr

/-- `PWM_ALIGN`: how the high time lies in the period (R56, D18). -/
inductive PwmAlign where
  | edge
  | centre
deriving DecidableEq, Repr

/-- `HOST_LINK_ORDER`: the byte order of a byte-serial host link, outside the router (R24, D15, I15). The spec names no
orders. DESIGN CHOICE, unsafe for a statement about every order: only these two, and no mixed order for a word of three
or more bytes (log entry 21). -/
inductive LinkOrder where
  | lowFirst
  | highFirst
deriving DecidableEq, Repr

/-- The configuration of one instance (R4, R5, R6, 00_scope §4), with the platform's boot facts of R78. -/
structure Config where
  /-- `CMD_W`, the width of the command word (R4). -/
  cmdW : Nat
  /-- `CH_A` (D16). -/
  chA : Nat
  /-- `CH_B` (D16). -/
  chB : Nat
  /-- `TIMER` (D16). -/
  timer : Nat
  /-- `EN_RES` (D16). -/
  enRes : Nat
  /-- `PWM_FREQ` in hertz (D17). -/
  pwmFreq : Nat
  /-- `PWM_UPDATE` of channel A (R55). -/
  updateA : PwmUpdate
  /-- `PWM_UPDATE` of channel B; equal to A's on a platform that meets R55, not on the platform of R80. -/
  updateB : PwmUpdate
  /-- `PWM_ALIGN` (R56). -/
  align : PwmAlign
  /-- `HOST_LINK_ORDER` (R24). -/
  linkOrder : LinkOrder
  /-- The shared timer runs at `PWM_FREQ` (R78, 2). -/
  timerRuns : Bool
  /-- Channel A is bound to the timer in PWM mode (R78, 3). -/
  boundA : Bool
  /-- Channel B is bound to the timer in PWM mode (R78, 3). -/
  boundB : Bool
  /-- No other agent owns `CH_A`, `CH_B` or `EN_RES` (R78, 4; R70). -/
  soleOwner : Bool
deriving DecidableEq, Repr

/-- The period `T = 1 / PWM_FREQ` of the shared timer, in seconds (R56). -/
def Config.period (c : Config) : Rat := 1 / (c.pwmFreq : Rat)

/-- FREE VALUE (R20, I8): a width register of instance `inst` as drawn at power-on. -/
opaque Config.powerUpDuty (inst : Nat) (leg : Leg) : Duty

/-- FREE VALUE (R20, I8): the enable line of instance `inst` as drawn at power-on. -/
opaque Config.powerUpEn (inst : Nat) : Bool

/-- FREE VALUE (R20, I8): `diag_valid` of instance `inst` as drawn at power-on. -/
opaque Config.powerUpDiagValid (inst : Nat) : Bool

/-- FREE VALUE (R20, I8): `diag_value` of instance `inst` as drawn at power-on: any word of its `cmdW`-bit port (R9). -/
opaque Config.powerUpDiagValue (inst cmdW : Nat) : BitVec cmdW

/-- FREE VALUE (R20, I8): `diag_oor` of instance `inst` as drawn at power-on. -/
opaque Config.powerUpDiagOor (inst : Nat) : Bool

/-- FREE VALUE (N4, I8): the width an external channel of instance `inst` applies at power-on. -/
opaque Config.powerUpApplied (inst : Nat) (leg : Leg) : Duty

/-- FREE VALUE (R14, R20): `cmd_ready` of instance `inst` in POWERUP with `rst = 0`, as drawn at power-on and kept by every
idle step there (R21, R73). -/
opaque Config.powerUpReady (inst : Nat) : Bool

/-- FREE VALUE (I11, I12): the level of a pin of instance `inst` at position `pos`, in slot `k` of a period in
which the spec gives no level. -/
opaque Config.freePin (inst pos : Nat) (leg : Leg) (k : Nat) : Bool

end Sys2Proof
end

