-- ==== Sys2Proof/Syntax.lean ====
section
/-! DEFINITION. The syntax: the one instruction of the opcode table, the port inputs of a step, and the host's
assembly directives. -/

namespace Sys2Proof

/-- The instruction set: one row in spec/opcode_table.json. -/
inductive Instr where
  /-- `SET_DUTY d` (R40): `d` is the commanded duty as an integer (R7, R33). -/
  | setDuty (d : Int)
deriving DecidableEq, Repr

/-- The commanded duty of an instruction. -/
def Instr.duty : Instr → Int
  | .setDuty d => d

/-- The input ports of one instance in one step (R9). `cmdDuty` is the raw word on `cmd_duty`, read unsigned. -/
structure PortIn where
  rst : Bool
  cmdValid : Bool
  cmdDuty : Nat
deriving DecidableEq, Repr

/-- The host's assembly language, one action per line (R38). -/
inductive Directive where
  /-- `SET_DUTY <int>` with a decimal integer. -/
  | setDuty (v : Int)
  /-- `SET_DUTY 0x…`: the hexadecimal digits, most significant first, taken as the raw word. -/
  | setDutyHex (digits : List (Fin 16))
  | rstAssert
  /-- `RST_RELEASE`: one step with `rst = 0`, also where `rst` is low already (log entry 22). -/
  | rstRelease
  | reset
  | idle (n : Nat)
deriving DecidableEq, Repr

end Sys2Proof
end

