-- ==== Sys2Proof/WellFormed.lean ====
section
/-! DEFINITION. Which instructions and which configurations have a meaning. -/

namespace Sys2Proof

/-- An instruction exists at width `W` when its operand fits a `W`-bit word (R39, I16). -/
def Instr.wellFormed (W : Nat) : Instr → Bool
  | .setDuty d => fits W d

/-- One instance's configuration is well formed: `CMD_W ≥ 8` (R4), distinct channels (R5), a frequency that
has a period (R56), and the boot requirements of R78. DEDUCED, safe: log entry 8. -/
def Config.wellFormed (c : Config) : Bool :=
  decide (8 ≤ c.cmdW) && decide (c.chA ≠ c.chB) && decide (0 < c.pwmFreq)
    && c.timerRuns && c.boundA && c.boundB && c.soleOwner

/-- Two instances may live together: each its own enable line (R70, R78); on one timer, one frequency (R58) and
no channel in common (R5, C7). DEDUCED, safe: log entry 8. -/
def Config.compatible (c c' : Config) : Bool :=
  decide (c.enRes ≠ c'.enRes) &&
    (decide (c.timer ≠ c'.timer) ||
      (decide (c.pwmFreq = c'.pwmFreq) && decide (c.chA ≠ c'.chA) && decide (c.chA ≠ c'.chB)
        && decide (c.chB ≠ c'.chA) && decide (c.chB ≠ c'.chB)))

/-- The configurations of all instances of a system are well formed, together (R5, R78). -/
def configsWellFormed : List Config → Bool
  | [] => true
  | c :: cs => c.wellFormed && cs.all c.compatible && configsWellFormed cs

end Sys2Proof
end

