-- ==== Sys2Proof/Machine/State.lean ====
section
/-! DEFINITION. The state: the router instances with their external PWM channels, and the host's list of
actions; reset and power-up; the refusals. Plain data. -/

namespace Sys2Proof.Machine

/-- The lifecycle of an instance (R10). -/
inductive Phase where
  | powerUp
  | inReset
  | active
deriving DecidableEq, Repr

/-- One observable event: the diagnostic events of R61 and the commits of R30, in one step order. -/
inductive Event where
  /-- `CMD(d)`: the commanded value of one transfer (R41). -/
  | cmd (d : Int)
  /-- `OUT_OF_RANGE`: the report of a rejected transfer (R62). -/
  | outOfRange
  /-- `Commit(a, b)`: the new values of both registers (R30, R45). -/
  | commit (a b : Duty)
deriving DecidableEq, Repr

/-- A diagnostic beat: `diag_value` and `diag_oor` in a step with `diag_valid = 1` (R9, R34). -/
structure Beat where
  value : Nat
  oor : Bool
deriving DecidableEq, Repr

/-- An external PWM channel as far as the spec speaks of it (R55, R56): the width it applies, and whether the
running period holds a change or a rewrite, so that its level is open until the period ends (I12). DESIGN CHOICE, unsafe for
the pins: log entry 12. -/
structure Channel where
  applied : Duty
  disturbed : Bool
deriving DecidableEq, Repr

/-- One router instance (R22), its configuration (R6) and the channels it drives (R55). -/
structure Router where
  /-- The configuration, which no step writes (R6, R16). -/
  cfg : Config
  /-- R10. -/
  phase : Phase
  /-- Channel A's pulse width (R11). -/
  dutyA : Duty
  /-- Channel B's pulse width (R12). -/
  dutyB : Duty
  /-- The enable line (R13). -/
  en : Bool
  /-- The diagnostic stream and the commit history, oldest first (R22, R30, R61). -/
  log : List Event
  /-- The diagnostic port after the last step: `none` is `diag_valid = 0` (R9, R34). -/
  beat : Option Beat
  /-- The external channel `CH_A` (R55). -/
  chanA : Channel
  /-- The external channel `CH_B` (R55). -/
  chanB : Channel
deriving DecidableEq, Repr

/-- One action of the host or of the platform (R17, R73). -/
inductive HostAction where
  /-- One step of instance `inst` with these port inputs (R9, R21). -/
  | drive (inst : Nat) (p : PortIn)
  /-- A period of the shared timer ends (R55, R58). -/
  | periodBoundary (timer : Nat)
  /-- Someone changes an instance's configuration: outside the spec (R81). -/
  | configChange (inst : Nat) (cfg : Config)
  /-- Another agent writes an instance's channel: outside the spec (R70, R81). -/
  | foreignWrite (inst : Nat) (leg : Leg) (v : Duty)
deriving DecidableEq, Repr

/-- The whole system: the instances (R71) and the host's program (R17). -/
structure State where
  /-- The router instances (R71). -/
  routers : List Router
  /-- The instance whose port the host drives now: the model's own field. -/
  cur : Nat
  /-- The host's list of actions (R17). -/
  script : List HostAction
  /-- The position in that list (R17); past its end nothing is presented. -/
  pos : Nat
deriving DecidableEq, Repr

/-- No behaviour of the router faults (R65; 93_implementation_defined §2), so there is no fault. -/
inductive Fault where
deriving DecidableEq, Repr

/-- The behaviours the spec gives no meaning. -/
inductive Refusal where
  /-- An instruction of the table whose meaning is not written yet: raised by exec's refused arms only. Safe. -/
  | notModelled (mnemonic : String)
  /-- A command presented in POWERUP (R76, I9): raised by SET_DUTY. Safe. -/
  | commandInPowerUp
  /-- An ill-formed configuration (R5, R68, I2, I3): raised by every step of a system that has one. Safe. -/
  | illFormedConfig
  /-- A command operand that no `CMD_W`-bit word holds (R39, I16): raised by SET_DUTY and by fetching one. Safe. -/
  | operandDoesNotFit
  /-- A configuration change (R81, I17): raised by that host action. Safe. -/
  | configChange
  /-- A foreign write to a channel (R70, R81, I17): raised by that host action. Safe. -/
  | foreignWrite
  /-- An action for an instance that does not exist (R21): raised by every step of an instance. Safe. -/
  | noSuchInstance
deriving DecidableEq, Repr

/-- What a step answers. -/
abbrev Answer := Host.Outcome State Fault Refusal

/-- The reference configuration: `CMD_W = 16` (R4, D2). DESIGN CHOICE (log entry 5): every other value is open in
the spec, and only has to be well formed. -/
def referenceConfig : Config :=
  { cmdW := 16, chA := 1, chB := 2, timer := 0, enRes := 0, pwmFreq := 20000
    updateA := .periodBoundary, updateB := .periodBoundary, align := .edge, linkOrder := .lowFirst
    timerRuns := true, boundA := true, boundB := true, soleOwner := true }

/-- An instance on entry to ACTIVE, before any command (R20, R75). DESIGN CHOICE (log entry 12): its channels
apply 0, undisturbed. -/
def Router.entry (cfg : Config) : Router :=
  { cfg := cfg, phase := .active, dutyA := 0, dutyB := 0, en := true, log := [], beat := none
    chanA := { applied := 0, disturbed := false }, chanB := { applied := 0, disturbed := false } }

/-- Instance `inst` at power-on: every register and output at any value (R20, R76, I8). -/
def Router.powerUp (inst : Nat) (cfg : Config) : Router :=
  { cfg := cfg, phase := .powerUp
    dutyA := Config.powerUpDuty inst .a, dutyB := Config.powerUpDuty inst .b, en := Config.powerUpEn inst
    log := []
    beat := if Config.powerUpDiagValid inst then
        some { value := (Config.powerUpDiagValue inst cfg.cmdW).toNat, oor := Config.powerUpDiagOor inst } else none
    chanA := { applied := Config.powerUpApplied inst .a, disturbed := true }
    chanB := { applied := Config.powerUpApplied inst .b, disturbed := true } }

/-- The system at power-on with these configurations and this host program: where every program of the spec
starts (95_test_vectors §3). -/
def State.powerUp (cfgs : List Config) (script : List HostAction) : State :=
  { routers := cfgs.mapIdx Router.powerUp, cur := 0, script := script, pos := 0 }

/-- The machine right after reset: one instance on entry to ACTIVE (R20, R75), nothing presented. -/
def State.reset : State :=
  { routers := [Router.entry referenceConfig], cur := 0, script := [], pos := 0 }

end Sys2Proof.Machine
end

