-- ==== Sys2Proof/Machine/Flags.lean ====
section
/-! DEFINITION. The router has no flags and no condition codes (R18): what stands here is what the spec derives
from the registers and the command instead: the held direction (R15) and the value classes of a command (R35). -/

namespace Sys2Proof.Machine

/-- The held-output states of the source's state machine (R15). -/
inductive Direction where
  | forward
  | reverse
deriving DecidableEq, Repr

/-- The held direction is derived from `duty_b`, it is no register (R15). -/
def Router.dir (r : Router) : Direction :=
  if r.dutyB = 0 then .forward else .reverse

/-- The value classes of a command (R35). -/
inductive DutyClass where
  | fwd
  | rejAbove
  | rejBelow
  | rev
deriving DecidableEq, Repr

/-- The class of a commanded duty, by the integer (R35, second column). -/
def classOf (d : Int) : DutyClass :=
  if d ≤ -100 then .rejBelow
  else if d < 0 then .rev
  else if d ≤ 100 then .fwd
  else .rejAbove

/-- The class of a `W`-bit word read unsigned, by the word (R35, third column). -/
def classOfWord (W n : Nat) : DutyClass :=
  if n ≤ 100 then .fwd
  else if n ≤ 2 ^ (W - 1) - 1 then .rejAbove
  else if n ≤ 2 ^ W - 100 then .rejBelow
  else .rev

/-- `diag_oor`, the only cause code: 1 exactly in the reject band (R34, R62). -/
def outOfRange (d : Int) : Bool := decide (d ≤ -100) || decide (100 < d)

end Sys2Proof.Machine
end

