-- ==== Sys2Proof/Machine/Operands.lean ====
section
/-! DEFINITION. From a commanded duty to the two widths: the routing policy of R47, and the gate equations of R53
that compute the same from the bits of the word. -/

namespace Sys2Proof.Machine

/-- The whole family as one pure function of the commanded duty (R47): the new widths of an accepted command,
nothing for a rejected one. -/
def route (d : Int) : Option (Duty × Duty) :=
  if 0 ≤ d ∧ d ≤ 100 then some (BitVec.ofNat 7 d.toNat, 0)
  else if -100 < d ∧ d < 0 then some (0, BitVec.ofNat 7 (-d).toNat)
  else none

/-- The signals of the gate logic (R53). -/
structure Gates where
  fwdOk : Bool
  revOk : Bool
  accept : Bool
  selB : Bool
  mag : Duty
  dutyA : Duty
  dutyB : Duty
  oor : Bool
deriving DecidableEq, Repr

/-- The validator, the selector and the mux on the bits of a word (R53); `dutyA` and `dutyB` are the values at the
registers' inputs, loaded only when `accept`. -/
def gates {W : Nat} (w : BitVec W) : Gates :=
  let u := w.toNat
  let fwdOk := !w.msb && decide (u ≤ 100)
  let revOk := w.msb && decide (2 ^ W - 99 ≤ u)
  let mag := if revOk then BitVec.ofNat 7 (2 ^ W - u) else BitVec.ofNat 7 u
  { fwdOk := fwdOk, revOk := revOk, accept := fwdOk || revOk, selB := revOk, mag := mag
    dutyA := if revOk then 0 else mag, dutyB := if revOk then mag else 0, oor := !(fwdOk || revOk) }

end Sys2Proof.Machine
end

