-- ==== Sys2Proof/Decode.lean ====
section
/-! DEFINITION. The decoder of command words and its encoder (30_encoding), the assembly of words from a
byte-serial host link (R24), and the assembler of host directives (R38, R39). -/

namespace Sys2Proof

/-- Why no command word, or no action, results. -/
inductive DecodeRefusal where
  /-- The number presented is no word of `CMD_W` bits. -/
  | wordTooWide
  /-- A host link delivered another number of bytes than the word has. -/
  | wrongByteCount
deriving DecidableEq, Repr

/-- Why the assembler refuses a directive. -/
inductive AsmRefusal where
  /-- The integer operand does not fit `CMD_W` bits; it is never wrapped (R39, R82). -/
  | operandOutOfRange
  /-- A hexadecimal word must have exactly `CMD_W / 4` digits, rounded up, and fit `CMD_W` bits (R38). -/
  | badHexWord
deriving DecidableEq, Repr

/-- The operand of a command word: the whole word, sign-extended; no scaling, no saturation (R33). -/
def operandOf {W : Nat} (w : BitVec W) : Int := w.toInt

/-- Every word is a `SET_DUTY` (R32, R35): the decoder is total on words. -/
def decodeWord {W : Nat} (w : BitVec W) : Instr := .setDuty (operandOf w)

/-- Decode what is presented on a `W`-bit command port, read unsigned. -/
def decode (W n : Nat) : Except DecodeRefusal Instr :=
  if n < 2 ^ W then .ok (decodeWord (BitVec.ofNat W n)) else .error .wordTooWide

/-- The word of an integer operand: `enc_W` of R7, only for a value that fits (R39). -/
def encodeOperand (W : Nat) (v : Int) : Option (BitVec W) :=
  if fits W v then some (BitVec.ofInt W v) else none

/-- The word of a well-formed instruction (R32). -/
def encode (W : Nat) : Instr → Option (BitVec W)
  | .setDuty d => encodeOperand W d

/-- How many bytes a byte-serial link needs for a `W`-bit word. -/
def linkBytes (W : Nat) : Nat := (W + 7) / 8

/-- The number that bytes stand for, least significant first. -/
def bytesValue : List Byte → Nat
  | [] => 0
  | b :: bs => b.toNat + 256 * bytesValue bs

/-- The host assembles the whole word from a byte-serial link in the link's byte order (R24). -/
def linkWord (order : LinkOrder) (bytes : List Byte) : Nat :=
  match order with
  | .lowFirst => bytesValue bytes
  | .highFirst => bytesValue bytes.reverse

/-- Decode the bytes of a host link: total on any bytes, refusing by name (R24, R35). DESIGN CHOICE,
safe: log entry 17. -/
def decodeLink (order : LinkOrder) (W : Nat) (bytes : List Byte) : Except DecodeRefusal Instr :=
  if bytes.length = linkBytes W then decode W (linkWord order bytes) else .error .wrongByteCount

/-- The number a hexadecimal word stands for, most significant digit first. -/
def hexValue (digits : List (Fin 16)) : Nat := digits.foldl (fun n x => 16 * n + x.val) 0

/-- The step of a presented command word with the reset line at level `rst`. -/
def PortIn.command (rst : Bool) (w : Nat) : PortIn := { rst := rst, cmdValid := true, cmdDuty := w }

/-- The step of no command with the reset line at level `rst`. -/
def PortIn.quiet (rst : Bool) : PortIn := { rst := rst, cmdValid := false, cmdDuty := 0 }

/-- One directive as the port inputs of the steps it stands for, and the level of `rst` after it (R38): a raised
`rst` stays raised until it is lowered (log entry 17). DESIGN CHOICE, safe: where `rst` is low already, `RST_RELEASE` is one
step with `rst = 0` all the same, and what that step is, the instance's phase says (log entry 22). -/
def assemble (W : Nat) (rst : Bool) : Directive → Except AsmRefusal (List PortIn × Bool)
  | .setDuty v =>
    match encodeOperand W v with
    | some w => .ok ([PortIn.command rst w.toNat], rst)
    | none => .error .operandOutOfRange
  | .setDutyHex ds =>
    if ds.length = (W + 3) / 4 ∧ hexValue ds < 2 ^ W then
      .ok ([PortIn.command rst (hexValue ds)], rst)
    else .error .badHexWord
  | .rstAssert => .ok ([PortIn.quiet true], true)
  | .rstRelease => .ok ([PortIn.quiet false], false)
  | .reset => .ok ([PortIn.quiet true, PortIn.quiet false], false)
  | .idle n => .ok (List.replicate n (PortIn.quiet rst), rst)

/-- A sequence of directives, from a level of `rst` (R38). -/
def assembleAll (W : Nat) (rst : Bool) : List Directive → Except AsmRefusal (List PortIn)
  | [] => .ok []
  | x :: xs =>
    match assemble W rst x with
    | .error e => .error e
    | .ok (ps, rst') =>
      match assembleAll W rst' xs with
      | .error e => .error e
      | .ok qs => .ok (ps ++ qs)

/-- The instruction that the decoder reads from a table word: the table gives its row at the reference width
`CMD_W = 16` (R4, opcode_table.json); bits above `nbits` are 0. -/
def decodeTableWord (nbits w : Nat) : Option Instr :=
  if nbits ≤ 16 ∧ w < 2 ^ nbits then
    match decode 16 w with
    | .ok i => some i
    | .error _ => none
  else none

end Sys2Proof
end

