-- ==== Sys2Proof/Machine/Ops.lean ====
section
/-! DEFINITION. The named operations: on a channel, on one instance (emitting, committing, reset, release, idle),
and on the system (the instance a step is of). There is no memory (R23) and no exception is ever taken (R65): the one
error is an event that `Router.emit` appends (R62). -/

namespace Sys2Proof.Machine

/-- A channel's input carries the width `new`; `moved` says that it changed. An immediate channel applies it at
once, in the middle of the running period (R55, R80). DESIGN CHOICE, unsafe for the pins: log entry 12. -/
def Channel.follow (u : PwmUpdate) (moved : Bool) (new : Duty) (c : Channel) : Channel :=
  match u with
  | .immediate => { applied := new, disturbed := c.disturbed || moved }
  | .periodBoundary => c

/-- A commit writes a channel (R45, R55): a rewrite with the current width may disturb the running
period (I12). DESIGN CHOICE, unsafe for the pins: log entry 12. -/
def Channel.write (u : PwmUpdate) (old new : Duty) (c : Channel) : Channel :=
  { (c.follow u (decide (new ≠ old)) new) with
    disturbed := (c.follow u (decide (new ≠ old)) new).disturbed || decide (new = old) || decide (new = c.applied) }

/-- The period ends: the channel applies what its input carries, and a clean period starts (R55, R56). -/
def Channel.endPeriod (input : Duty) : Channel := { applied := input, disturbed := false }

/-- Append one event to the streams (R7 `emit`, R30, R61). -/
def Router.emit (e : Event) (r : Router) : Router := { r with log := r.log ++ [e] }

/-- The commit (R45): both registers in one step, recorded as one event, even when nothing changes. -/
def Router.commit (a b : Duty) (r : Router) : Router :=
  { r with
    dutyA := a, dutyB := b, log := r.log ++ [.commit a b]
    chanA := r.chanA.write r.cfg.updateA r.dutyA a
    chanB := r.chanB.write r.cfg.updateB r.dutyB b }

/-- Put a diagnostic beat on the port (R34). -/
def Router.putBeat (value : Nat) (oor : Bool) (r : Router) : Router :=
  { r with beat := some { value := value, oor := oor } }

/-- `AssertReset` (R74): both widths and the enable line go to 0, no event, no beat; the channels' inputs follow
(R55). -/
def Router.assertReset (r : Router) : Router :=
  { r with
    phase := .inReset, dutyA := 0, dutyB := 0, en := false, beat := none
    chanA := r.chanA.follow r.cfg.updateA (decide (r.dutyA ≠ 0)) 0
    chanB := r.chanB.follow r.cfg.updateB (decide (r.dutyB ≠ 0)) 0 }

/-- `ReleaseReset`, construction (R75): ACTIVE with the entry values of R20, no command taken, no event.
DEDUCED, safe: log entry 11. -/
def Router.releaseReset (r : Router) : Router :=
  { r with phase := .active, dutyA := 0, dutyB := 0, en := true, beat := none }

/-- A step with `rst = 0` and no command: the release in IN_RESET (R75), else `Idle` (R84). In POWERUP the outputs
keep what was drawn (R21). -/
def Router.quiet (r : Router) : Router :=
  match r.phase with
  | .powerUp => r
  | .inReset => r.releaseReset
  | .active => { r with beat := none }

/-- A period of the instance's timer ends (R55). -/
def Router.endPeriod (r : Router) : Router :=
  { r with chanA := Channel.endPeriod r.dutyA, chanB := Channel.endPeriod r.dutyB }

/-- The diagnostic event stream (R61). -/
def Router.diagStream (r : Router) : List Event :=
  r.log.filter fun e => match e with
    | .commit _ _ => false
    | _ => true

/-- The commit history (R30). -/
def Router.commitHistory (r : Router) : List (Duty × Duty) :=
  r.log.filterMap fun e => match e with
    | .commit a b => some (a, b)
    | _ => none

/-- The configurations of the system are well formed (R5, R68). -/
def State.configOk (s : State) : Bool := configsWellFormed (s.routers.map Router.cfg)

/-- The instance whose port is driven now. -/
def State.current (s : State) : Option Router := s.routers[s.cur]?

/-- Write the current instance back. -/
def State.putCurrent (r : Router) (s : State) : State := { s with routers := s.routers.set s.cur r }

/-- One step of the current instance by `f`, which may refuse; every other instance is untouched (R71). An
ill-formed configuration has no meaning (R5; log entries 8, 16). -/
def State.onCurrent (s : State) (f : Router → Except Refusal Router) : Answer :=
  if s.configOk then
    match s.current with
    | none => .refused .noSuchInstance
    | some r =>
      match f r with
      | .ok r' => .next (s.putCurrent r')
      | .error e => .refused e
  else .refused .illFormedConfig

/-- Take the next action of the host's list, for instance `inst` (R17). -/
def State.select (inst : Nat) (s : State) : State := { s with cur := inst, pos := s.pos + 1 }

/-- Take an action that is no instance's, or no action at all past the end of the list (R17). -/
def State.advance (s : State) : State := { s with pos := s.pos + 1 }

/-- A period of `timer` ends for every instance bound to it (R58). -/
def State.endPeriod (timer : Nat) (s : State) : State :=
  { s with routers := s.routers.map fun r => if r.cfg.timer = timer then r.endPeriod else r }

end Sys2Proof.Machine
end

