-- ==== Sys2Proof/Machine/SetDuty.lean ====
section
/-! DEFINITION. The SET_DUTY family (40_set_duty): one transfer, and the meaning of the instruction. -/

namespace Sys2Proof.Machine

/-- The word of a transferred duty as it stands on `diag_value` (R34). -/
def diagWord (W : Nat) (d : Int) : Nat := (BitVec.ofInt W d).toNat

/-- One transfer in ACTIVE (R40): `CMD(d)` before validation (R41), then the commit of the forward or reverse band
(R42, R43, R45), or `OUT_OF_RANGE` and no write (R44); the beat of R34. -/
def Router.transfer (d : Int) (r : Router) : Router :=
  match route d with
  | some (a, b) => ((r.emit (.cmd d)).commit a b).putBeat (diagWord r.cfg.cmdW d) (outOfRange d)
  | none => ((r.emit (.cmd d)).emit .outOfRange).putBeat (diagWord r.cfg.cmdW d) (outOfRange d)

/-- A step with `rst = 0` in which the host presents the command `d`: transferred in ACTIVE (R14, R40), refused in
POWERUP (R76); in IN_RESET the step is the release and takes no command (R75). DEDUCED, safe: log entries 9, 10. -/
def Router.present (d : Int) (r : Router) : Except Refusal Router :=
  if fits r.cfg.cmdW d then
    match r.phase with
    | .powerUp => .error .commandInPowerUp
    | .inReset => .ok r.releaseReset
    | .active => .ok (r.transfer d)
  else .error .operandDoesNotFit

/-- `SET_DUTY` (R40): presented on the port of the current instance. -/
def execSetDuty (d : Int) (s : State) : Answer := s.onCurrent (Router.present d)

end Sys2Proof.Machine
end

