-- ==== Sys2Proof/Machine/Ports.lean ====
section
/-! DEFINITION. The ports of one instance (R9): what is combinational, when a transfer happens, and how a beat is
read back into events (R34). -/

namespace Sys2Proof.Machine

/-- `cmd_ready` of instance `inst` (R14): in POWERUP with `rst = 0` the value drawn at power-on, which nothing there
redraws (R20, R21; log entry 4). -/
def Router.cmdReady (inst : Nat) (rst : Bool) (r : Router) : Bool :=
  if rst then false
  else match r.phase with
    | .powerUp => Config.powerUpReady inst
    | .inReset => false
    | .active => true

/-- The output ports of one instance (R9). -/
structure PortOut where
  cmdReady : Bool
  dutyA : Duty
  dutyB : Duty
  en : Bool
  diagValid : Bool
  diag : Option Beat
deriving DecidableEq, Repr

/-- What the ports carry in a step with these inputs: `cmd_ready` from the state before it, the registers and the
beat from the state after it (R28, R73). -/
def portOut (inst : Nat) (p : PortIn) (before after : Router) : PortOut :=
  { cmdReady := before.cmdReady inst p.rst, dutyA := after.dutyA, dutyB := after.dutyB, en := after.en
    diagValid := after.beat.isSome, diag := after.beat }

/-- The diagnostic events that a beat on a `W`-bit port stands for (R34). -/
def beatEvents (W : Nat) : Option Beat → List Event
  | none => []
  | some b =>
    .cmd (operandOf (BitVec.ofNat W b.value)) :: (if b.oor then [.outOfRange] else [])

end Sys2Proof.Machine
end

