-- ==== Sys2Proof/Machine/HostPort.lean ====
section
/-! DEFINITION. What each action of the host or the platform does (R21, R73): the fetching of the next command is
here. -/

namespace Sys2Proof.Machine

/-- `AssertReset` of the current instance (R74). -/
def assertReset (s : State) : Answer := s.onCurrent fun r => .ok r.assertReset

/-- No command presented to the current instance: `ReleaseReset` or `Idle` (R75, R84). -/
def noCommand (s : State) : Answer := s.onCurrent fun r => .ok r.quiet

/-- The width of the current instance's command port; 0 where there is no such instance. -/
def State.portWidth (s : State) : Nat :=
  match s.current with
  | some r => r.cfg.cmdW
  | none => 0

/-- A command presented with `rst = 0`: the word is decoded and the instruction runs (R32, R40). -/
def presentWord (w : Nat) (s : State) : Answer :=
  match decode s.portWidth w with
  | .ok i => exec i s
  | .error _ => s.onCurrent fun _ => .error .operandDoesNotFit

/-- One step of the current instance with these port inputs: a reset wins over a command (R67). -/
def drivePort (p : PortIn) (s : State) : Answer :=
  if p.rst then assertReset s
  else if p.cmdValid then presentWord p.cmdDuty s
  else noCommand s

/-- An answer of a system whose configuration is checked first (R5). -/
def State.guarded (s : State) (a : Answer) : Answer :=
  if s.configOk then a else .refused .illFormedConfig

/-- One action of the host's list. -/
def hostAct (a : HostAction) (s : State) : Answer :=
  match a with
  | .drive inst p => drivePort p (s.select inst)
  | .periodBoundary timer => s.guarded (.next (s.endPeriod timer).advance)
  | .configChange _ _ => s.guarded (.refused .configChange)
  | .foreignWrite _ _ _ => s.guarded (.refused .foreignWrite)

/-- The list is used up: nothing is presented and every instance holds what it has (R73, R84). DESIGN CHOICE,
unsafe for a host that lowers `rst` after its list: log entry 7. -/
def holdAll (s : State) : Answer := s.guarded (.next s.advance)

/-- Take the host's next action (R17). -/
def stepHost (s : State) : Answer :=
  match s.script[s.pos]? with
  | some a => hostAct a s
  | none => holdAll s

/-- The host's next action presents the word `w` to the first instance. The actions before and after it stay. -/
def State.withCommand (w : Nat) (s : State) : State :=
  { s with
    script := s.script.take s.pos ++ HostAction.drive 0 (PortIn.command false w) :: s.script.drop (s.pos + 1)
    pos := min s.pos s.script.length }

end Sys2Proof.Machine
end

