-- ==== Sys2Proof/Machine/Step.lean ====
section
/-! DEFINITION. One step: the host's next action (R17, R21). -/

namespace Sys2Proof.Machine

/-- One step of the system. -/
def step (s : State) : Host.Outcome State Fault Refusal := stepHost s

/-- The same system, with the word `w` of a table row presented to the first instance by the very next step. -/
def State.withFetchWord (s : State) (_nbits w : Nat) : State := s.withCommand w

end Sys2Proof.Machine
end

