-- ==== Sys2Proof/Machine/Pins.lean ====
section
/-! DEFINITION. The two pins of an instance as far as the spec speaks of them (R54 to R57, R80). One PWM period is
looked at in 200 slots of equal length, two for each percent. -/

namespace Sys2Proof.Machine

/-- A clean period of a channel at `p` percent: high in `2 p` of the 200 slots (R56). The place of the high time is
`PWM_ALIGN`'s: from the start of the period, or about its middle. DESIGN CHOICE, unsafe for the level of one slot:
log entry 13. -/
def waveHigh (align : PwmAlign) (p k : Nat) : Bool :=
  match align with
  | .edge => decide (k < 2 * p)
  | .centre => decide (100 - p ≤ k) && decide (k < 100 + p)

/-- How many of a clean period's slots are high. -/
def highSlots (align : PwmAlign) (p : Nat) : Nat := (List.range 200).countP (waveHigh align p)

/-- The channel of a leg. -/
def Router.channel (leg : Leg) (r : Router) : Channel :=
  match leg with
  | .a => r.chanA
  | .b => r.chanB

/-- The width a leg's channel is driven with (R54, R55). -/
def Router.duty (leg : Leg) (r : Router) : Duty :=
  match leg with
  | .a => r.dutyA
  | .b => r.dutyB

/-- `PWM_UPDATE` of a leg's channel (R55). -/
def Router.update (leg : Leg) (r : Router) : PwmUpdate :=
  match leg with
  | .a => r.cfg.updateA
  | .b => r.cfg.updateB

/-- The level of a pin in slot `k` of the running period: the wave of the applied width in a clean period; a free
value in a period that holds a change or a rewrite (I12), and at a code above 100 (R37, I11). -/
def Router.pinHigh (inst pos : Nat) (leg : Leg) (k : Nat) (r : Router) : Bool :=
  if (r.channel leg).disturbed ∨ 100 < (r.channel leg).applied.toNat then Config.freePin inst pos leg k
  else waveHigh r.cfg.align (r.channel leg).applied.toNat k

/-- The time a pin is high in a clean period, in seconds (R56). -/
def Router.highTime (leg : Leg) (r : Router) : Rat :=
  ((r.channel leg).applied.toNat : Rat) / 100 * r.cfg.period

/-- The running period is clean and both channels apply the widths the router drives: they have applied the same
commit (R57). -/
def Router.settled (r : Router) : Prop :=
  r.chanA = Channel.endPeriod r.dutyA ∧ r.chanB = Channel.endPeriod r.dutyB

end Sys2Proof.Machine
end

