-- ==== Sys2Proof/Safety.lean ====
section
/-! DEFINITION. The terms claims are stated in: the invariants, when a command or a step of an instance is ready to
run, and runs of several actions. -/

namespace Sys2Proof.Machine

/-- The state invariants of one instance (R19), with what R12, R20 and R50 add: `duty_b ≤ 99`, and the reset values
in IN_RESET. POWERUP is not constrained (R20). -/
structure Router.Inv (r : Router) : Prop where
  rangeA : r.phase ≠ .powerUp → r.dutyA.toNat ≤ 100
  rangeB : r.phase ≠ .powerUp → r.dutyB.toNat ≤ 99
  exclusive : r.phase ≠ .powerUp → r.dutyA = 0 ∨ r.dutyB = 0
  enabled : r.phase = .active → r.en = true
  inReset : r.phase = .inReset → r.dutyA = 0 ∧ r.dutyB = 0 ∧ r.en = false

/-- Every instance meets its invariant. -/
def State.Inv (s : State) : Prop := ∀ r ∈ s.routers, r.Inv

/-- What keeps the pins apart on a platform that meets R55: the instance is under way (not in POWERUP), meets its
invariant, and, where both channels have the same `PWM_UPDATE`, never applies two nonzero widths at once. -/
structure Router.PinsApart (r : Router) : Prop where
  inv : r.Inv
  started : r.phase ≠ .powerUp
  apart : r.cfg.updateA = r.cfg.updateB → r.chanA.applied = 0 ∨ r.chanB.applied = 0

/-- The log is the events of whole transfers, one after another: `CMD(d)` and then the commit the band of `d` gives,
or `CMD(d)` and then `OUT_OF_RANGE` for a `d` of the reject band (R27, R30, R63). -/
def logWhole : List Event → Prop
  | [] => True
  | .cmd d :: .commit a b :: rest => route d = some (a, b) ∧ logWhole rest
  | .cmd d :: .outOfRange :: rest => route d = none ∧ logWhole rest
  | _ => False

/-- Every instance's log is whole. -/
def State.LogsWhole (s : State) : Prop := ∀ r ∈ s.routers, logWhole r.log

/-- The system has a well-formed configuration and the current instance is `r`. -/
structure State.At (s : State) (r : Router) : Prop where
  config : s.configOk = true
  current : s.current = some r

/-- A command `d` is transferred: the current instance `r` is ACTIVE and a word of its port holds `d` (R14, R21,
R39). -/
structure State.Ready (s : State) (r : Router) (d : Int) : Prop where
  here : s.At r
  active : r.phase = .active
  fit : fits r.cfg.cmdW d = true

/-- The forward band (R42). -/
abbrev Forward (d : Int) : Prop := 0 ≤ d ∧ d ≤ 100

/-- The reverse band (R43). -/
abbrev Reverse (d : Int) : Prop := -100 < d ∧ d < 0

/-- The reject band (R44). -/
abbrev Reject (d : Int) : Prop := d ≤ -100 ∨ 100 < d

/-- The system after a step of the current instance: that instance is `r`, every other instance, the selection, the
host's list and the position in it are as before (R71). -/
def State.steppedTo (s : State) (r : Router) : State :=
  { routers := s.routers.set s.cur r, cur := s.cur, script := s.script, pos := s.pos }

/-- Drive instance `inst` with port inputs, one step after another. -/
def driveAll (inst : Nat) : List PortIn → State → Answer
  | [], s => .next s
  | p :: ps, s =>
    match drivePort p (s.select inst) with
    | .next t => driveAll inst ps t
    | .fault e => .fault e
    | .refused e => .refused e

/-- The duty a `W`-bit port input commands, if it presents one. -/
def PortIn.commanded (W : Nat) (p : PortIn) : Option Int :=
  if p.cmdValid then some (operandOf (BitVec.ofNat W p.cmdDuty)) else none

/-- The widths of the last command accepted since the last release, if there is one, among port inputs of a `W`-bit
instance (R52): `inReset` says whether the last step had `rst = 1`, `last` is what was accepted before. A reset forgets
it, and the first step with `rst = 0` after one is the release, which accepts nothing (R75). -/
def lastAccepted (W : Nat) (inReset : Bool) (last : Option (Duty × Duty)) : List PortIn → Option (Duty × Duty)
  | [] => last
  | p :: ps =>
    if p.rst then lastAccepted W true none ps
    else if inReset then lastAccepted W false none ps
    else lastAccepted W false (((PortIn.commanded W p).bind route).or last) ps

/-- A step of instance `inst` at these port inputs takes a command transfer: `cmd_valid = 1` and `cmd_ready = 1`
(R9). -/
def transfers (inst : Nat) (p : PortIn) (r : Router) : Prop :=
  p.cmdValid = true ∧ r.cmdReady inst p.rst = true

/-- A well-formed action: an instance that exists, a word of its port, nothing foreign, and no command in POWERUP
(R21, R39, R70, R76, R81). -/
def State.Allowed (s : State) : HostAction → Prop
  | .drive inst p => ∃ r, s.routers[inst]? = some r ∧
      (p.rst = false → p.cmdValid = true → r.phase ≠ .powerUp ∧ p.cmdDuty < 2 ^ r.cfg.cmdW)
  | .periodBoundary _ => True
  | .configChange _ _ => False
  | .foreignWrite _ _ _ => False

end Sys2Proof.Machine
end

