-- ==== Sys2Proof/Certificates/Slice0/Obligations.lean ====
section
/-! DEFINITION. The statements for the provers. Each docstring names the rule of spec/ it formalises. -/

open Sys2Proof Sys2Proof.Machine

/-! ### Encoding (30_encoding) -/

/-- Decoding the word of a well-formed instruction gives it back, at every width (R32, R33, R39). -/
def Obligations.DecodeOfEncodeIsTheInstruction : Prop :=
  ∀ (W : Nat) (i : Instr), 8 ≤ W → i.wellFormed W = true →
    ∃ w : BitVec W, encode W i = some w ∧ decode W w.toNat = .ok i

/-- Every word decodes, to a well-formed `SET_DUTY` whose encoding is that word again (R32, R35). -/
def Obligations.EncodeOfDecodeIsTheWord : Prop :=
  ∀ (W : Nat) (w : BitVec W), 8 ≤ W →
    ∃ i, decode W w.toNat = .ok i ∧ i.wellFormed W = true ∧ encode W i = some w

/-- The assembler makes the word of an integer operand only if it fits, as `v mod 2^CMD_W`, and refuses it otherwise
(R39). That the assembled command carries the level at which `rst` is held, 1 included, and leaves it so, is the
model's reading of R38 (log entry 17). -/
def Obligations.OperandIsEncodedOrRefused : Prop :=
  ∀ (W : Nat) (rst : Bool) (v : Int), 8 ≤ W →
    ((-((2 ^ (W - 1) : Nat) : Int) ≤ v ∧ v ≤ ((2 ^ (W - 1) : Nat) : Int) - 1) →
      ∃ n : Nat, (n : Int) = v % ((2 ^ W : Nat) : Int) ∧
        assemble W rst (.setDuty v) = .ok ([{ rst := rst, cmdValid := true, cmdDuty := n }], rst)) ∧
    (¬ (-((2 ^ (W - 1) : Nat) : Int) ≤ v ∧ v ≤ ((2 ^ (W - 1) : Nat) : Int) - 1) →
      assemble W rst (.setDuty v) = .error .operandOutOfRange)

/-- R35: every word decodes to `SET_DUTY` and falls into exactly one value class, the one of the table's row, by
the integer and by the word alike. -/
def Obligations.EveryWordHasItsValueClass : Prop :=
  ∀ (W n : Nat), 8 ≤ W → n < 2 ^ W → ∃ d : Int, decode W n = .ok (.setDuty d) ∧
    (Forward d ↔ n ≤ 100) ∧ (100 < d ↔ 101 ≤ n ∧ n ≤ 2 ^ (W - 1) - 1) ∧
    (d ≤ -100 ↔ 2 ^ (W - 1) ≤ n ∧ n ≤ 2 ^ W - 100) ∧ (Reverse d ↔ 2 ^ W - 99 ≤ n) ∧
    classOf d = classOfWord W n ∧
    (classOf d = .fwd ↔ Forward d) ∧ (classOf d = .rejAbove ↔ 100 < d) ∧
    (classOf d = .rejBelow ↔ d ≤ -100) ∧ (classOf d = .rev ↔ Reverse d)

/-- The first and the last word of every class of R36, at both widths, decode to the boundary integers. That the
opcode table's words are read at `CMD_W = 16` (`decodeTableWord`) is the model's choice (log entry 19). -/
def Obligations.BoundaryWordsDecode : Prop :=
  (∀ x ∈ ([(0x0000, 0), (0x0064, 100), (0x0065, 101), (0x7FFF, 32767), (0x8000, -32768), (0xFF9C, -100),
      (0xFF9D, -99), (0xFFFF, -1)] : List (Nat × Int)),
    decode 16 x.1 = .ok (.setDuty x.2) ∧ decodeTableWord 16 x.1 = some (.setDuty x.2)) ∧
  ∀ x ∈ ([(0x00, 0), (0x64, 100), (0x65, 101), (0x7F, 127), (0x80, -128), (0x9C, -100), (0x9D, -99),
      (0xFF, -1)] : List (Nat × Int)),
    decode 8 x.1 = .ok (.setDuty x.2)

/-- The host assembles a link's bytes in the link's order: the two orders read each other's bytes reversed, and a
two-byte link that sends the low byte first delivers `lo + 256 hi` (R24). That a link has one of these two orders is the
model's choice (log entry 21), and so is how it frames and pads a word (log entry 17). -/
def Obligations.LinkOrderReversesTheBytes : Prop :=
  (∀ (W : Nat) (bytes : List Byte), decodeLink .highFirst W bytes = decodeLink .lowFirst W bytes.reverse) ∧
  ∀ lo hi : Byte, decodeLink .lowFirst 16 [lo, hi] = decode 16 (lo.toNat + 256 * hi.toNat)

/-! ### SET_DUTY (40_set_duty): results, frames, completion -/

/-- R42, R45: a forward command runs and commits `(d, 0)` in one step, with the events and the beat of an accepted
transfer; configuration, phase and enable line, the other instances and the host's list stay (the instance's channels
are stated apart, in `CommandDrivesItsChannels`). -/
def Obligations.ForwardCommandCommits : Prop :=
  ∀ (s : State) (r : Router) (d : Int), s.Ready r d → Forward d →
    ∃ r' : Router, exec (.setDuty d) s = .next (s.steppedTo r') ∧
      (r'.dutyA.toNat : Int) = d ∧ r'.dutyB = 0 ∧
      r'.log = r.log ++ [.cmd d, .commit r'.dutyA r'.dutyB] ∧
      r'.beat = some { value := diagWord r.cfg.cmdW d, oor := false } ∧
      r'.cfg = r.cfg ∧ r'.phase = r.phase ∧ r'.en = r.en

/-- R43, R45: a reverse command runs and commits `(0, −d)` in one step; the rest as for a forward command. -/
def Obligations.ReverseCommandCommits : Prop :=
  ∀ (s : State) (r : Router) (d : Int), s.Ready r d → Reverse d →
    ∃ r' : Router, exec (.setDuty d) s = .next (s.steppedTo r') ∧
      r'.dutyA = 0 ∧ (r'.dutyB.toNat : Int) = -d ∧ 1 ≤ r'.dutyB.toNat ∧ r'.dutyB.toNat ≤ 99 ∧
      r'.log = r.log ++ [.cmd d, .commit r'.dutyA r'.dutyB] ∧
      r'.beat = some { value := diagWord r.cfg.cmdW d, oor := false } ∧
      r'.cfg = r.cfg ∧ r'.phase = r.phase ∧ r'.en = r.en

/-- R44: a rejected command runs and writes no register, no enable line and no phase; it records no commit and reports
`OUT_OF_RANGE` after `CMD(d)` (the instance's channels are stated apart, in `CommandDrivesItsChannels`). -/
def Obligations.RejectedCommandWritesNothing : Prop :=
  ∀ (s : State) (r : Router) (d : Int), s.Ready r d → Reject d →
    ∃ r' : Router, exec (.setDuty d) s = .next (s.steppedTo r') ∧
      r'.dutyA = r.dutyA ∧ r'.dutyB = r.dutyB ∧ r'.en = r.en ∧ r'.phase = r.phase ∧ r'.cfg = r.cfg ∧
      r'.log = r.log ++ [.cmd d, .outOfRange] ∧ r'.commitHistory = r.commitHistory ∧
      r'.beat = some { value := diagWord r.cfg.cmdW d, oor := true }

/-- The external channels of the instance in a transfer (R55, I12; how a channel is modelled is the model's choice, log
entry 12). A rejected command writes neither. An accepted one writes each channel once with the new width of its
register, in that same step: an immediate channel applies it, in a period that is then disturbed; a period-boundary
channel still applies what it did, and its period is disturbed, if it was not already, exactly by a rewrite, that is by
the width the register held or the width the channel applies. -/
def Obligations.CommandDrivesItsChannels : Prop :=
  ∀ (s : State) (r : Router) (d : Int), s.Ready r d →
    ∃ r' : Router, exec (.setDuty d) s = .next (s.steppedTo r') ∧ ∀ leg : Leg,
      (Reject d → r'.channel leg = r.channel leg) ∧
      (¬ Reject d →
        r'.channel leg = (r.channel leg).write (r.update leg) (r.duty leg) (r'.duty leg) ∧
        (r.update leg = .immediate →
          (r'.channel leg).applied = r'.duty leg ∧ (r'.channel leg).disturbed = true) ∧
        (r.update leg = .periodBoundary →
          (r'.channel leg).applied = (r.channel leg).applied ∧
          ((r'.channel leg).disturbed = true ↔ (r.channel leg).disturbed = true ∨ r'.duty leg = r.duty leg ∨
            r'.duty leg = (r.channel leg).applied)))

/-- R41: every transferred command, whatever its band, emits `CMD(d)`, before the one other event of its transfer. -/
def Obligations.CommandValueIsReportedFirst : Prop :=
  ∀ (s : State) (r : Router) (d : Int), s.Ready r d →
    ∃ (r' : Router) (e : Event), exec (.setDuty d) s = .next (s.steppedTo r') ∧
      r'.log = r.log ++ [.cmd d, e] ∧ (e = .outOfRange ∨ e = .commit r'.dutyA r'.dutyB)

/-- R62: the range error is reported exactly when `d ≤ −100` or `d > 100`, on the beat and in the stream, and then the
registers are as before. -/
def Obligations.RangeErrorExactlyOutOfRange : Prop :=
  ∀ (s : State) (r : Router) (d : Int), s.Ready r d →
    ∃ (r' : Router) (b : Beat), exec (.setDuty d) s = .next (s.steppedTo r') ∧ r'.beat = some b ∧
      (b.oor = true ↔ Reject d) ∧ (r'.log = r.log ++ [.cmd d, .outOfRange] ↔ Reject d) ∧
      (Reject d → r'.dutyA = r.dutyA ∧ r'.dutyB = r.dutyB ∧ r'.en = r.en ∧ r'.phase = r.phase)

/-- R46: a transferred command never writes `en` and never changes the phase. -/
def Obligations.CommandKeepsEnableAndPhase : Prop :=
  ∀ (s : State) (r : Router) (d : Int), s.Ready r d →
    ∃ r' : Router, exec (.setDuty d) s = .next (s.steppedTo r') ∧ r'.en = r.en ∧ r'.phase = .active

/-- R34: the beat carries the transferred word, in `CMD_W` bits, and read back it stands for exactly the diagnostic
events the transfer appends. -/
def Obligations.BeatStandsForItsEvents : Prop :=
  ∀ (s : State) (r : Router) (d : Int), s.Ready r d →
    ∃ (r' : Router) (b : Beat), exec (.setDuty d) s = .next (s.steppedTo r') ∧ r'.beat = some b ∧
      encode r.cfg.cmdW (.setDuty d) = some (BitVec.ofNat r.cfg.cmdW b.value) ∧ b.value < 2 ^ r.cfg.cmdW ∧
      (b.oor = true ↔ Reject d) ∧ r'.diagStream = r.diagStream ++ .cmd d :: (if b.oor then [.outOfRange] else []) ∧
      r'.diagStream = r.diagStream ++ beatEvents r.cfg.cmdW r'.beat

/-- R48: a second transfer of the same command leaves both widths and the enable line as the first did, and appends
its own copy of the events. -/
def Obligations.CommandIsIdempotent : Prop :=
  ∀ (s : State) (r : Router) (d : Int), s.Ready r d →
    ∃ (r₁ r₂ : Router) (es : List Event),
      exec (.setDuty d) s = .next (s.steppedTo r₁) ∧
      exec (.setDuty d) (s.steppedTo r₁) = .next (s.steppedTo r₂) ∧
      r₂.dutyA = r₁.dutyA ∧ r₂.dutyB = r₁.dutyB ∧ r₂.en = r₁.en ∧
      es ≠ [] ∧ r₁.log = r.log ++ es ∧ r₂.log = r₁.log ++ es

/-- R51: from either direction the next direction and the registers follow the class of the command, and a rejected
one keeps both. -/
def Obligations.DirectionFollowsTheCommand : Prop :=
  ∀ (s : State) (r : Router) (d : Int), s.Ready r d →
    ∃ r' : Router, exec (.setDuty d) s = .next (s.steppedTo r') ∧
      (Forward d → r'.dir = .forward ∧ (r'.dutyA.toNat : Int) = d ∧ r'.dutyB = 0) ∧
      (Reverse d → r'.dir = .reverse ∧ r'.dutyA = 0 ∧ (r'.dutyB.toNat : Int) = -d) ∧
      (Reject d → r'.dir = r.dir ∧ r'.dutyA = r.dutyA ∧ r'.dutyB = r.dutyB)

/-- R2: what an accepted command leaves in both registers depends on the command alone: two systems that differ in
everything else end with the same widths. -/
def Obligations.AcceptedWidthsForgetTheState : Prop :=
  ∀ (s₁ s₂ : State) (r₁ r₂ : Router) (d : Int), s₁.Ready r₁ d → s₂.Ready r₂ d → ¬ Reject d →
    ∃ r₁' r₂' : Router, exec (.setDuty d) s₁ = .next (s₁.steppedTo r₁') ∧
      exec (.setDuty d) s₂ = .next (s₂.steppedTo r₂') ∧ r₁'.dutyA = r₂'.dutyA ∧ r₁'.dutyB = r₂'.dutyB

/-- R50: after an accepted command `duty_b` is nonzero exactly for the reverse band, and `duty_a` is 100 exactly for
`SET_DUTY 100`. -/
def Obligations.ReachableWidthsAreAsymmetric : Prop :=
  ∀ (s : State) (r : Router) (d : Int), s.Ready r d → ¬ Reject d →
    ∃ r' : Router, exec (.setDuty d) s = .next (s.steppedTo r') ∧
      (r'.dutyB ≠ 0 ↔ Reverse d) ∧ (r'.dutyA.toNat = 100 ↔ d = 100) ∧ r'.dutyB.toNat ≤ 99

/-- R53: on every word of every width the gate equations accept, reject and load what the routing rule does. -/
def Obligations.GatesAgreeWithRouting : Prop :=
  ∀ (W : Nat) (w : BitVec W), 8 ≤ W →
    (gates w).oor = !(gates w).accept ∧ (gates w).oor = outOfRange w.toInt ∧
    ((gates w).fwdOk = true ↔ Forward w.toInt) ∧ ((gates w).revOk = true ↔ Reverse w.toInt) ∧
    ((gates w).accept = true → (gates w).mag.toNat = w.toInt.natAbs) ∧
    route w.toInt = if (gates w).accept then some ((gates w).dutyA, (gates w).dutyB) else none

/-- R53 at the machine: a word presented to an ACTIVE instance loads the registers with the gates' outputs if they
accept it, and keeps them if not. -/
def Obligations.PresentedWordLoadsTheGates : Prop :=
  ∀ (s : State) (r : Router) (w : BitVec r.cfg.cmdW), s.At r → r.phase = .active →
    ∃ r' : Router, presentWord w.toNat s = .next (s.steppedTo r') ∧
      r'.dutyA = (if (gates w).accept then (gates w).dutyA else r.dutyA) ∧
      r'.dutyB = (if (gates w).accept then (gates w).dutyB else r.dutyB)

/-! ### SET_DUTY outside ACTIVE -/

/-- R76: a command presented in POWERUP is refused. -/
def Obligations.CommandInPowerUpIsRefused : Prop :=
  ∀ (s : State) (r : Router) (d : Int), s.At r → r.phase = .powerUp → fits r.cfg.cmdW d = true →
    exec (.setDuty d) s = .refused .commandInPowerUp

/-- A command presented in the first step with `rst = 0` after a reset is not transferred: the step is the release
(R14, R75). -/
def Obligations.CommandInResetIsNotTaken : Prop :=
  ∀ (s : State) (r : Router) (d : Int), s.At r → r.phase = .inReset → fits r.cfg.cmdW d = true →
    ∃ r' : Router, exec (.setDuty d) s = .next (s.steppedTo r') ∧ r'.phase = .active ∧ r'.en = true ∧
      r'.dutyA = 0 ∧ r'.dutyB = 0 ∧ r'.log = r.log ∧ r'.beat = none ∧ r'.cfg = r.cfg

/-- An operand that no word of the port holds has no transfer (R39, I16). -/
def Obligations.OperandTooWideIsRefused : Prop :=
  ∀ (s : State) (r : Router) (d : Int), s.At r → fits r.cfg.cmdW d = false →
    exec (.setDuty d) s = .refused .operandDoesNotFit

/-! ### The host's actions (R21, R73) -/

/-- A step is what its action says: where the host's next action drives an instance, the step selects that instance, moves
past the action and is that instance's step at these port inputs (`drivePort`: with `rst = 1`, with a command, with
neither). And a step runs the decoded instruction: where the action presents a word with `rst = 0`, that is `exec` of what
the word decodes to. -/
def Obligations.StepRunsTheDecodedInstruction : Prop :=
  ∀ (s : State) (inst : Nat) (p : PortIn), s.script[s.pos]? = some (.drive inst p) →
    step s = drivePort p { routers := s.routers, cur := inst, script := s.script, pos := s.pos + 1 } ∧
    ∀ (r : Router) (i : Instr), p.rst = false → p.cmdValid = true → s.routers[inst]? = some r →
      decode r.cfg.cmdW p.cmdDuty = .ok i →
      step s = exec i { routers := s.routers, cur := inst, script := s.script, pos := s.pos + 1 }

/-- R74: in any phase a step with `rst = 1` is `AssertReset`: it takes no command, even one presented in the same step
(R67), and emits no event (the instance's channels are stated apart, in `HostStepsDriveTheChannels`). -/
def Obligations.ResetStepClearsTheInstance : Prop :=
  ∀ (s : State) (r : Router) (p : PortIn), s.At r → p.rst = true →
    ∃ r' : Router, drivePort p s = .next (s.steppedTo r') ∧
      r'.phase = .inReset ∧ r'.dutyA = 0 ∧ r'.dutyB = 0 ∧ r'.en = false ∧
      r'.log = r.log ∧ r'.beat = none ∧ r'.cfg = r.cfg

/-- R75: in IN_RESET a step with `rst = 0` is `ReleaseReset`: ACTIVE with the entry values; it takes no command and
emits no event; from then on `cmd_ready = 1`. -/
def Obligations.ReleaseStepConstructs : Prop :=
  ∀ (s : State) (r : Router) (p : PortIn), s.At r → r.phase = .inReset → p.rst = false →
    p.cmdDuty < 2 ^ r.cfg.cmdW →
    ∃ r' : Router, drivePort p s = .next (s.steppedTo r') ∧
      r'.phase = .active ∧ r'.en = true ∧ r'.dutyA = 0 ∧ r'.dutyB = 0 ∧
      r'.log = r.log ∧ r'.beat = none ∧ r'.cfg = r.cfg ∧
      ∀ inst, r'.cmdReady inst false = true

/-- R84: in ACTIVE or POWERUP a step with no command and `rst = 0` changes no state and emits nothing (in ACTIVE there is
then no beat); in IN_RESET such a step is the release. In POWERUP the outputs `cmd_ready` and the diagnostic port keep what
was drawn at power-on, too. -/
def Obligations.IdleStepChangesNothing : Prop :=
  ∀ (s : State) (r : Router) (p : PortIn), s.At r → p.rst = false → p.cmdValid = false →
    ∃ r' : Router, drivePort p s = .next (s.steppedTo r') ∧ r'.log = r.log ∧ r'.cfg = r.cfg ∧
      (r.phase ≠ .inReset → r'.phase = r.phase ∧ r'.dutyA = r.dutyA ∧ r'.dutyB = r.dutyB ∧ r'.en = r.en) ∧
      (r.phase = .active → r'.beat = none) ∧
      (r.phase = .powerUp → r'.beat = r.beat ∧ ∀ inst rst, r'.cmdReady inst rst = r.cmdReady inst rst) ∧
      (r.phase = .inReset → r'.phase = .active ∧ r'.en = true ∧ r'.dutyA = 0 ∧ r'.dutyB = 0)

/-- The external channels in a step that takes no transfer (R55; how a channel is modelled is the model's choice, log
entry 12). A step with `rst = 1`, with or without a command, drives both inputs to 0: an immediate channel applies 0, in
a period that is disturbed if it was or if the register moved; a period-boundary channel stays as it is. A release, with
or without a command, and an idle step leave both channels as they are. -/
def Obligations.HostStepsDriveTheChannels : Prop :=
  ∀ (s : State) (r : Router) (p : PortIn), s.At r → (p.rst = true ∨ r.phase = .inReset ∨ p.cmdValid = false) →
    (p.rst = false → p.cmdValid = true → p.cmdDuty < 2 ^ r.cfg.cmdW) →
    ∃ r' : Router, drivePort p s = .next (s.steppedTo r') ∧ ∀ leg : Leg,
      (p.rst = false → r'.channel leg = r.channel leg) ∧
      (p.rst = true →
        r'.channel leg = (r.channel leg).follow (r.update leg) (decide (r.duty leg ≠ 0)) 0 ∧
        (r.update leg = .immediate →
          (r'.channel leg).applied = 0 ∧
          ((r'.channel leg).disturbed = true ↔ (r.channel leg).disturbed = true ∨ r.duty leg ≠ 0)) ∧
        (r.update leg = .periodBoundary → r'.channel leg = r.channel leg))

/-- R77: from any phase, with any register values, the directive `RESET` constructs again: the entry values of R20, with
no beat and `cmd_ready = 1`, and the diagnostic stream is not cleared. -/
def Obligations.ResetDirectiveConstructsAgain : Prop :=
  ∀ (s : State) (r : Router) (inst : Nat), s.configOk = true → s.routers[inst]? = some r →
    ∃ (ps : List PortIn) (t : State) (r' : Router), assemble r.cfg.cmdW false .reset = .ok (ps, false) ∧
      driveAll inst ps s = .next t ∧ t.routers[inst]? = some r' ∧
      r'.phase = .active ∧ r'.dutyA = 0 ∧ r'.dutyB = 0 ∧ r'.en = true ∧ r'.dir = .forward ∧
      r'.beat = none ∧ (∀ k, r'.cmdReady k false = true) ∧
      r'.log = r.log ∧ r'.diagStream = r.diagStream ∧ r'.cfg = r.cfg

/-- The host's directives without a command (R38): `RST_ASSERT` is one step with `rst = 1` and leaves it raised, `RST_RELEASE`
one with `rst = 0` and leaves it low, `RESET` the first and then the second, and `IDLE n` is `n` steps with no command at
the level at which `rst` is held (that it is held between directives is the model's reading, log entry 17; that
`RST_RELEASE` has its step where `rst` is low already is the model's choice, log entry 22). With `rst` low, `IDLE n` holds an ACTIVE instance for all its `n` steps: no timeout, watchdog or decay (R84). -/
def Obligations.IdleDirectiveHoldsForever : Prop :=
  (∀ (W : Nat) (rst : Bool),
    assemble W rst .rstAssert = .ok ([{ rst := true, cmdValid := false, cmdDuty := 0 }], true) ∧
    assemble W rst .rstRelease = .ok ([{ rst := false, cmdValid := false, cmdDuty := 0 }], false) ∧
    assemble W rst .reset = .ok ([{ rst := true, cmdValid := false, cmdDuty := 0 },
      { rst := false, cmdValid := false, cmdDuty := 0 }], false) ∧
    ∀ n, assemble W rst (.idle n) = .ok (List.replicate n { rst := rst, cmdValid := false, cmdDuty := 0 }, rst)) ∧
  ∀ (n : Nat) (s : State) (r : Router) (inst : Nat), s.configOk = true → s.routers[inst]? = some r →
    r.phase = .active →
    ∃ (ps : List PortIn) (t : State) (r' : Router), assemble r.cfg.cmdW false (.idle n) = .ok (ps, false) ∧
      ps.length = n ∧ driveAll inst ps s = .next t ∧ t.routers[inst]? = some r' ∧
      r'.phase = .active ∧ r'.dutyA = r.dutyA ∧ r'.dutyB = r.dutyB ∧ r'.en = r.en ∧ r'.log = r.log ∧
      r'.chanA = r.chanA ∧ r'.chanB = r.chanB

/-- An assembled `SET_DUTY v` is the transfer of `v`: the word the assembler makes is decoded back to `v` and runs
(R38, R39, R73). -/
def Obligations.AssembledCommandRuns : Prop :=
  ∀ (s : State) (r : Router) (v : Int) (ps : List PortIn), s.At r →
    assemble r.cfg.cmdW false (.setDuty v) = .ok (ps, false) →
    ∃ p, ps = [p] ∧ drivePort p s = exec (.setDuty v) s

/-- The hexadecimal form of `SET_DUTY` (R38): exactly `CMD_W / 4` digits, rounded up, taken as the raw word (most
significant digit first), are one presented command, and that step runs what the word decodes to; digits of another
count are refused. That digits exceeding `CMD_W` bits are refused, too, is the model's choice (log entry 17). -/
def Obligations.HexadecimalWordIsTheRawWord : Prop :=
  ∀ (s : State) (r : Router) (ds : List (Fin 16)) (n : Nat), s.At r →
    n = Nat.ofDigits 16 (ds.map Fin.val).reverse →
    (ds.length = (r.cfg.cmdW + 3) / 4 ∧ n < 2 ^ r.cfg.cmdW →
      ∃ p : PortIn, assemble r.cfg.cmdW false (.setDutyHex ds) = .ok ([p], false) ∧
        p = { rst := false, cmdValid := true, cmdDuty := n } ∧
        drivePort p s = exec (.setDuty (operandOf (BitVec.ofNat r.cfg.cmdW n))) s) ∧
    (¬ (ds.length = (r.cfg.cmdW + 3) / 4 ∧ n < 2 ^ r.cfg.cmdW) →
      assemble r.cfg.cmdW false (.setDutyHex ds) = .error .badHexWord)

/-- R14: `cmd_ready` is 0 in any step with `rst = 1`; with `rst = 0` it is 1 in ACTIVE and 0 in IN_RESET. -/
def Obligations.CommandReadyByPhase : Prop :=
  ∀ (r : Router) (inst : Nat),
    r.cmdReady inst true = false ∧ (r.phase = .active → r.cmdReady inst false = true) ∧
    (r.phase = .inReset → r.cmdReady inst false = false)

/-- While ACTIVE the router never refuses a transfer and never stalls: any word of the port, presented with `rst = 0`,
is taken in its own step, and the instance stays ACTIVE (R14, R65, R66). -/
def Obligations.ActiveInstanceTakesEveryWord : Prop :=
  ∀ (s : State) (r : Router) (p : PortIn), s.At r → r.phase = .active → p.rst = false → p.cmdValid = true →
    p.cmdDuty < 2 ^ r.cfg.cmdW →
    ∃ r' : Router, drivePort p s = .next (s.steppedTo r') ∧ r'.phase = .active ∧ r'.en = r.en ∧
      ∃ es, r'.log = r.log ++ .cmd (operandOf (BitVec.ofNat r.cfg.cmdW p.cmdDuty)) :: es

/-- R9, R73: in the step that takes a transfer, the ports show `cmd_ready = 1`, the new registers, and a beat with the
very word that was presented. -/
def Obligations.PortsShowTheTransfer : Prop :=
  ∀ (s : State) (r : Router) (p : PortIn) (inst : Nat), s.At r → r.phase = .active → p.rst = false →
    p.cmdValid = true → p.cmdDuty < 2 ^ r.cfg.cmdW →
    ∃ r' : Router, drivePort p s = .next (s.steppedTo r') ∧
      portOut inst p r r' =
        { cmdReady := true, dutyA := r'.dutyA, dutyB := r'.dutyB, en := r'.en, diagValid := true
          diag := some { value := p.cmdDuty, oor := outOfRange (operandOf (BitVec.ofNat r.cfg.cmdW p.cmdDuty)) } }

/-- R9, R34: a step that takes no transfer shows `diag_valid = 0`: any step with `rst = 1`, and with `rst = 0` a
release or an ACTIVE step with no command. -/
def Obligations.NoTransferNoBeat : Prop :=
  ∀ (s : State) (r : Router) (p : PortIn), s.At r → p.cmdDuty < 2 ^ r.cfg.cmdW →
    (p.rst = true ∨ r.phase = .inReset ∨ (r.phase = .active ∧ p.cmdValid = false)) →
    ∃ r' : Router, drivePort p s = .next (s.steppedTo r') ∧ ∀ inst, (portOut inst p r r').diagValid = false

/-- In a well-formed system every action of R21's table has a step, and so has the end of a timer's period, which is no
action of that table but the model's own (log entry 12). -/
def Obligations.AllowedActionsHaveSteps : Prop :=
  ∀ (s : State) (a : HostAction), s.configOk = true → s.script[s.pos]? = some a → s.Allowed a →
    ∃ t, step s = .next t

/-- The model's choice (log entry 7): past the end of the host's list a step holds every instance and counts on. -/
def Obligations.ListUsedUpHoldsAll : Prop :=
  ∀ s : State, s.configOk = true → s.script[s.pos]? = none →
    step s = .next { routers := s.routers, cur := s.cur, script := s.script, pos := s.pos + 1 }

/-- Configuration changes and foreign writes have no step (R21) and are refused. R81 and I17 speak of them while ACTIVE;
that they are refused in every phase is the model's reading (log entry 15). -/
def Obligations.ForeignActionsAreRefused : Prop :=
  ∀ (s : State) (inst : Nat) (cfg : Config) (leg : Leg) (v : Duty), s.configOk = true →
    (s.script[s.pos]? = some (.configChange inst cfg) → step s = .refused .configChange) ∧
    (s.script[s.pos]? = some (.foreignWrite inst leg v) → step s = .refused .foreignWrite)

/-- The model's choice (log entry 16): an action for an instance that does not exist has no step. -/
def Obligations.MissingInstanceIsRefused : Prop :=
  ∀ (s : State) (inst : Nat) (p : PortIn), s.configOk = true → s.routers[inst]? = none →
    s.script[s.pos]? = some (.drive inst p) → step s = .refused .noSuchInstance

/-- An ill-formed configuration has no meaning (R5, R68): every step and every instruction of such a system is refused.
That well-formedness asks for more than R5 names (a positive frequency, the boot facts of R78, distinct enable
resources), and that one ill-formed instance refuses the whole system before anything else is looked at, is the model's
reading (log entry 8). -/
def Obligations.IllFormedConfigurationIsRefused : Prop :=
  ∀ s : State, s.configOk = false →
    step s = .refused .illFormedConfig ∧ ∀ i, exec i s = .refused .illFormedConfig

/-- R5: a channel bound twice, within an instance or by two instances on one timer, makes the configuration
ill-formed. -/
def Obligations.SharedChannelIsIllFormed : Prop :=
  ∀ (s : State) (j k : Nat) (r r' : Router), s.routers[j]? = some r → s.routers[k]? = some r' →
    (r.cfg.chA = r.cfg.chB → s.configOk = false) ∧
    (j ≠ k → r.cfg.timer = r'.cfg.timer →
      (r.cfg.chA = r'.cfg.chA ∨ r.cfg.chA = r'.cfg.chB ∨ r.cfg.chB = r'.cfg.chA ∨ r.cfg.chB = r'.cfg.chB) →
      s.configOk = false)

/-! ### Reset and the rules of the whole machine -/

/-- R20: on entry to ACTIVE both widths are 0, the enable line is 1, there is no beat, commands are ready and the
direction is forward; the configuration is well formed. -/
def Obligations.ResetStateHasTheEntryValues : Prop :=
  State.reset.configOk = true ∧ State.reset.script = [] ∧
  ∃ r : Router, State.reset.routers = [r] ∧ State.reset.current = some r ∧ r.phase = .active ∧ r.dutyA = 0 ∧
    r.dutyB = 0 ∧ r.en = true ∧ r.beat = none ∧ r.log = [] ∧ r.dir = .forward ∧
    ∀ inst, r.cmdReady inst false = true

/-- The invariants hold on entry to ACTIVE and, as they say nothing of POWERUP, at power-on with any values (R19,
R20). -/
def Obligations.InvariantHoldsAtResetAndPowerUp : Prop :=
  State.reset.Inv ∧ ∀ cfgs script, (State.powerUp cfgs script).Inv

/-- R19: every step keeps the ranges, the mutual exclusivity and the enable line of every instance. -/
def Obligations.StepKeepsTheInvariant : Prop :=
  ∀ s t : State, s.Inv → step s = .next t → t.Inv

/-- The logs are whole on entry to ACTIVE and at power-on: nothing has been transferred (R63). -/
def Obligations.LogsAreWholeAtResetAndPowerUp : Prop :=
  State.reset.LogsWhole ∧ ∀ cfgs script, (State.powerUp cfgs script).LogsWhole

/-- R63: every step keeps every log a sequence of whole transfers, each `CMD(d)` followed by the commit its band gives
or by `OUT_OF_RANGE`. -/
def Obligations.StepKeepsTheLogsWhole : Prop :=
  ∀ s t : State, s.LogsWhole → step s = .next t → t.LogsWhole

/-- R61, R9: a step removes nothing from any instance's streams, and appends to them exactly when it takes a command
transfer of that instance. -/
def Obligations.OnlyTransfersAppendEvents : Prop :=
  ∀ (s t : State) (k : Nat) (r : Router), step s = .next t → s.routers[k]? = some r →
    ∃ (r' : Router) (es : List Event), t.routers[k]? = some r' ∧ r'.log = r.log ++ es ∧
      (es ≠ [] ↔ ∃ p, s.script[s.pos]? = some (.drive k p) ∧ transfers k p r)

/-- R6: no step changes any instance's configuration, and none adds or removes an instance. -/
def Obligations.ConfigurationNeverChanges : Prop :=
  ∀ s t : State, step s = .next t → t.routers.map Router.cfg = s.routers.map Router.cfg

/-- R60: only a step with `rst = 1` on an instance lowers its enable line. -/
def Obligations.OnlyResetLowersEnable : Prop :=
  ∀ (s t : State) (k : Nat) (r r' : Router), step s = .next t → s.routers[k]? = some r →
    t.routers[k]? = some r' → r.en = true → r'.en = false →
    ∃ p, s.script[s.pos]? = some (.drive k p) ∧ p.rst = true

/-- R71: a step of one instance changes nothing of any other. -/
def Obligations.OtherInstancesAreUntouched : Prop :=
  ∀ (s t : State) (inst k : Nat) (p : PortIn), s.script[s.pos]? = some (.drive inst p) → step s = .next t →
    k ≠ inst → t.routers[k]? = s.routers[k]?

/-- R52: after a release (which may itself present a command, and takes none), and whatever actions of the host on the instance follow it (commands, idle steps, further
resets and releases), the widths are those of the last command accepted since the last release, or `(0, 0)` if none
has been accepted. -/
def Obligations.LastAcceptedCommandDecides : Prop :=
  ∀ (p₀ : PortIn) (ps : List PortIn) (s : State) (r : Router) (inst : Nat), s.configOk = true →
    s.routers[inst]? = some r → r.phase = .inReset → p₀.rst = false → (∀ p ∈ p₀ :: ps, p.cmdDuty < 2 ^ r.cfg.cmdW) →
    ∃ (t : State) (r' : Router), driveAll inst (p₀ :: ps) s = .next t ∧
      t.routers[inst]? = some r' ∧ (r'.dutyA, r'.dutyB) = (lastAccepted r.cfg.cmdW false none ps).getD (0, 0)

/-! ### The pins (41_channel_mux, R80) -/

/-- R56: in a clean period a channel at `p` percent is high for `2 p` of 200 slots, so never at 0 and always at 100,
in either alignment (slots and alignments: the model's choice, log entry 13). -/
def Obligations.CleanPeriodIsHighForItsShare : Prop :=
  ∀ (align : PwmAlign) (p : Nat), p ≤ 100 → highSlots align p = 2 * p ∧
    (p = 0 → ∀ k, waveHigh align p k = false) ∧ (p = 100 → ∀ k, k < 200 → waveHigh align p k = true)

/-- The pin itself (R56), at an applied width of at most 100 percent: in a clean period its level in every slot is that of
the wave of the applied width, so it is high in two slots for each percent; and the time it is high is the applied
percentage of the period `T`, which is what its high slots make up of it. The slots and the alignments are the model's
choice (log entry 13), the clean period is its channel's (log entry 12). -/
def Obligations.HighTimeIsTheShareOfThePeriod : Prop :=
  ∀ (r : Router) (leg : Leg), (r.channel leg).applied.toNat ≤ 100 →
    ((r.channel leg).disturbed = false → ∀ inst pos : Nat,
      (∀ k, r.pinHigh inst pos leg k = waveHigh r.cfg.align (r.channel leg).applied.toNat k) ∧
      (List.range 200).countP (r.pinHigh inst pos leg) = 2 * (r.channel leg).applied.toNat) ∧
    r.highTime leg = (highSlots r.cfg.align (r.channel leg).applied.toNat : Rat) / 200 * r.cfg.period

/-- R58: the instances on one timer share its period. -/
def Obligations.SharedTimerSharesItsPeriod : Prop :=
  ∀ (s : State) (j k : Nat) (r r' : Router), s.configOk = true → s.routers[j]? = some r →
    s.routers[k]? = some r' → r.cfg.timer = r'.cfg.timer → r.cfg.period = r'.cfg.period

/-- R57: in a clean period that started after both channels applied the same commit, at most one of the two pins is ever
high: whether that commit is the one still driven, or a later one waits for the period's end (then the applied widths
are a commit of the history, or those of an instance whose channels have one `PWM_UPDATE`, `EqualUpdateKeepsPinsApart`).
Channels and slots are as log entries 12 and 13 model them. -/
def Obligations.SettledPinsAreExclusive : Prop :=
  ∀ (r : Router) (inst pos : Nat), r.chanA.disturbed = false → r.chanB.disturbed = false →
    ((r.Inv ∧ r.phase ≠ .powerUp ∧ r.settled) ∨
     (logWhole r.log ∧ (r.chanA.applied, r.chanB.applied) ∈ r.commitHistory) ∨
     (r.PinsApart ∧ r.cfg.updateA = r.cfg.updateB)) →
    (∀ k, r.pinHigh inst pos .a k = false) ∨ (∀ k, r.pinHigh inst pos .b k = false)

/-- R55: at the end of a period of the shared timer every channel bound to it applies what its instance drives; no
register, phase, enable line or log of any instance changes (the period's end as an action: log entry 12). -/
def Obligations.PeriodEndSettlesItsInstances : Prop :=
  ∀ (s : State) (tm k : Nat) (r : Router), s.configOk = true → s.script[s.pos]? = some (.periodBoundary tm) →
    s.routers[k]? = some r →
    ∃ (t : State) (r' : Router), step s = .next t ∧ t.routers[k]? = some r' ∧
      (r.cfg.timer = tm → r'.settled) ∧ (r.cfg.timer ≠ tm → r' = r) ∧
      r'.dutyA = r.dutyA ∧ r'.dutyB = r.dutyB ∧ r'.en = r.en ∧ r'.phase = r.phase ∧ r'.log = r.log ∧ r'.cfg = r.cfg

/-- Where both channels of an instance have the same `PWM_UPDATE`, it never applies two nonzero widths at once:
every step keeps that, of every instance (R55, R57; the channels as log entry 12 models them). -/
def Obligations.EqualUpdateKeepsPinsApart : Prop :=
  ∀ s t : State, (∀ r ∈ s.routers, r.PinsApart) → step s = .next t → ∀ r ∈ t.routers, r.PinsApart

/-- The pins start apart (R20; the channels' own start is the model's choice, log entry 12). -/
def Obligations.PinsStartApart : Prop := ∀ r ∈ State.reset.routers, r.PinsApart

/-- R80: where channel A applies at once and channel B at the period's end, a forward command given while B runs in
reverse leaves both channels applying nonzero widths, although the router's outputs are exclusive (the channels as log
entry 12 models them). -/
def Obligations.UnequalUpdateAdmitsOverlap : Prop :=
  ∀ (s : State) (r : Router) (d : Int), s.Ready r d → 0 < d → d ≤ 100 →
    r.cfg.updateA = .immediate → r.cfg.updateB = .periodBoundary → r.dutyB ≠ 0 → r.chanB.applied = r.dutyB →
    ∃ r' : Router, exec (.setDuty d) s = .next (s.steppedTo r') ∧ r'.dutyB = 0 ∧
      (r'.chanA.applied.toNat : Int) = d ∧ r'.chanB.applied = r.dutyB
end

