-- ==== Sys2Proof/Laws/State.lean ====
section
/-! SUPPORT. One lemma per field and update of an instance and of the system, each true by definition, so that no
proof unfolds a record update. -/

namespace Sys2Proof.Machine

/-! `Router.emit`, field by field. -/

@[simp] theorem Router.emit_cfg (e : Event) (r : Router) : (r.emit e).cfg = r.cfg := rfl
@[simp] theorem Router.emit_phase (e : Event) (r : Router) : (r.emit e).phase = r.phase := rfl
@[simp] theorem Router.emit_dutyA (e : Event) (r : Router) : (r.emit e).dutyA = r.dutyA := rfl
@[simp] theorem Router.emit_dutyB (e : Event) (r : Router) : (r.emit e).dutyB = r.dutyB := rfl
@[simp] theorem Router.emit_en (e : Event) (r : Router) : (r.emit e).en = r.en := rfl
@[simp] theorem Router.emit_log (e : Event) (r : Router) : (r.emit e).log = r.log ++ [e] := rfl
@[simp] theorem Router.emit_beat (e : Event) (r : Router) : (r.emit e).beat = r.beat := rfl
@[simp] theorem Router.emit_chanA (e : Event) (r : Router) : (r.emit e).chanA = r.chanA := rfl
@[simp] theorem Router.emit_chanB (e : Event) (r : Router) : (r.emit e).chanB = r.chanB := rfl

/-! `Router.commit`, field by field. -/

@[simp] theorem Router.commit_cfg (a b : Duty) (r : Router) : (r.commit a b).cfg = r.cfg := rfl
@[simp] theorem Router.commit_phase (a b : Duty) (r : Router) : (r.commit a b).phase = r.phase := rfl
@[simp] theorem Router.commit_dutyA (a b : Duty) (r : Router) : (r.commit a b).dutyA = a := rfl
@[simp] theorem Router.commit_dutyB (a b : Duty) (r : Router) : (r.commit a b).dutyB = b := rfl
@[simp] theorem Router.commit_en (a b : Duty) (r : Router) : (r.commit a b).en = r.en := rfl
@[simp] theorem Router.commit_log (a b : Duty) (r : Router) : (r.commit a b).log = r.log ++ [.commit a b] := rfl
@[simp] theorem Router.commit_beat (a b : Duty) (r : Router) : (r.commit a b).beat = r.beat := rfl
@[simp] theorem Router.commit_chanA (a b : Duty) (r : Router) : (r.commit a b).chanA = r.chanA.write r.cfg.updateA r.dutyA a := rfl
@[simp] theorem Router.commit_chanB (a b : Duty) (r : Router) : (r.commit a b).chanB = r.chanB.write r.cfg.updateB r.dutyB b := rfl

/-! `Router.putBeat`, field by field. -/

@[simp] theorem Router.putBeat_cfg (v : Nat) (o : Bool) (r : Router) : (r.putBeat v o).cfg = r.cfg := rfl
@[simp] theorem Router.putBeat_phase (v : Nat) (o : Bool) (r : Router) : (r.putBeat v o).phase = r.phase := rfl
@[simp] theorem Router.putBeat_dutyA (v : Nat) (o : Bool) (r : Router) : (r.putBeat v o).dutyA = r.dutyA := rfl
@[simp] theorem Router.putBeat_dutyB (v : Nat) (o : Bool) (r : Router) : (r.putBeat v o).dutyB = r.dutyB := rfl
@[simp] theorem Router.putBeat_en (v : Nat) (o : Bool) (r : Router) : (r.putBeat v o).en = r.en := rfl
@[simp] theorem Router.putBeat_log (v : Nat) (o : Bool) (r : Router) : (r.putBeat v o).log = r.log := rfl
@[simp] theorem Router.putBeat_beat (v : Nat) (o : Bool) (r : Router) : (r.putBeat v o).beat = some { value := v, oor := o } := rfl
@[simp] theorem Router.putBeat_chanA (v : Nat) (o : Bool) (r : Router) : (r.putBeat v o).chanA = r.chanA := rfl
@[simp] theorem Router.putBeat_chanB (v : Nat) (o : Bool) (r : Router) : (r.putBeat v o).chanB = r.chanB := rfl

/-! `Router.assertReset`, field by field. -/

@[simp] theorem Router.assertReset_cfg (r : Router) : (r.assertReset).cfg = r.cfg := rfl
@[simp] theorem Router.assertReset_phase (r : Router) : (r.assertReset).phase = .inReset := rfl
@[simp] theorem Router.assertReset_dutyA (r : Router) : (r.assertReset).dutyA = 0 := rfl
@[simp] theorem Router.assertReset_dutyB (r : Router) : (r.assertReset).dutyB = 0 := rfl
@[simp] theorem Router.assertReset_en (r : Router) : (r.assertReset).en = false := rfl
@[simp] theorem Router.assertReset_log (r : Router) : (r.assertReset).log = r.log := rfl
@[simp] theorem Router.assertReset_beat (r : Router) : (r.assertReset).beat = none := rfl
@[simp] theorem Router.assertReset_chanA (r : Router) : (r.assertReset).chanA = r.chanA.follow r.cfg.updateA (decide (r.dutyA ≠ 0)) 0 := rfl
@[simp] theorem Router.assertReset_chanB (r : Router) : (r.assertReset).chanB = r.chanB.follow r.cfg.updateB (decide (r.dutyB ≠ 0)) 0 := rfl

/-! `Router.releaseReset`, field by field. -/

@[simp] theorem Router.releaseReset_cfg (r : Router) : (r.releaseReset).cfg = r.cfg := rfl
@[simp] theorem Router.releaseReset_phase (r : Router) : (r.releaseReset).phase = .active := rfl
@[simp] theorem Router.releaseReset_dutyA (r : Router) : (r.releaseReset).dutyA = 0 := rfl
@[simp] theorem Router.releaseReset_dutyB (r : Router) : (r.releaseReset).dutyB = 0 := rfl
@[simp] theorem Router.releaseReset_en (r : Router) : (r.releaseReset).en = true := rfl
@[simp] theorem Router.releaseReset_log (r : Router) : (r.releaseReset).log = r.log := rfl
@[simp] theorem Router.releaseReset_beat (r : Router) : (r.releaseReset).beat = none := rfl
@[simp] theorem Router.releaseReset_chanA (r : Router) : (r.releaseReset).chanA = r.chanA := rfl
@[simp] theorem Router.releaseReset_chanB (r : Router) : (r.releaseReset).chanB = r.chanB := rfl

/-! `Router.endPeriod`, field by field. -/

@[simp] theorem Router.endPeriod_cfg (r : Router) : (r.endPeriod).cfg = r.cfg := rfl
@[simp] theorem Router.endPeriod_phase (r : Router) : (r.endPeriod).phase = r.phase := rfl
@[simp] theorem Router.endPeriod_dutyA (r : Router) : (r.endPeriod).dutyA = r.dutyA := rfl
@[simp] theorem Router.endPeriod_dutyB (r : Router) : (r.endPeriod).dutyB = r.dutyB := rfl
@[simp] theorem Router.endPeriod_en (r : Router) : (r.endPeriod).en = r.en := rfl
@[simp] theorem Router.endPeriod_log (r : Router) : (r.endPeriod).log = r.log := rfl
@[simp] theorem Router.endPeriod_beat (r : Router) : (r.endPeriod).beat = r.beat := rfl
@[simp] theorem Router.endPeriod_chanA (r : Router) : (r.endPeriod).chanA = Channel.endPeriod r.dutyA := rfl
@[simp] theorem Router.endPeriod_chanB (r : Router) : (r.endPeriod).chanB = Channel.endPeriod r.dutyB := rfl

/-! `State.putCurrent`, field by field. -/

@[simp] theorem State.putCurrent_routers (r : Router) (s : State) : (s.putCurrent r).routers = s.routers.set s.cur r := rfl
@[simp] theorem State.putCurrent_cur (r : Router) (s : State) : (s.putCurrent r).cur = s.cur := rfl
@[simp] theorem State.putCurrent_script (r : Router) (s : State) : (s.putCurrent r).script = s.script := rfl
@[simp] theorem State.putCurrent_pos (r : Router) (s : State) : (s.putCurrent r).pos = s.pos := rfl

/-! `State.steppedTo`, field by field. -/

@[simp] theorem State.steppedTo_routers (r : Router) (s : State) : (s.steppedTo r).routers = s.routers.set s.cur r := rfl
@[simp] theorem State.steppedTo_cur (r : Router) (s : State) : (s.steppedTo r).cur = s.cur := rfl
@[simp] theorem State.steppedTo_script (r : Router) (s : State) : (s.steppedTo r).script = s.script := rfl
@[simp] theorem State.steppedTo_pos (r : Router) (s : State) : (s.steppedTo r).pos = s.pos := rfl

/-! `State.select`, field by field. -/

@[simp] theorem State.select_routers (inst : Nat) (s : State) : (s.select inst).routers = s.routers := rfl
@[simp] theorem State.select_cur (inst : Nat) (s : State) : (s.select inst).cur = inst := rfl
@[simp] theorem State.select_script (inst : Nat) (s : State) : (s.select inst).script = s.script := rfl
@[simp] theorem State.select_pos (inst : Nat) (s : State) : (s.select inst).pos = s.pos + 1 := rfl

/-! `State.advance`, field by field. -/

@[simp] theorem State.advance_routers (s : State) : (s.advance).routers = s.routers := rfl
@[simp] theorem State.advance_cur (s : State) : (s.advance).cur = s.cur := rfl
@[simp] theorem State.advance_script (s : State) : (s.advance).script = s.script := rfl
@[simp] theorem State.advance_pos (s : State) : (s.advance).pos = s.pos + 1 := rfl

/-! `State.endPeriod`, field by field. -/

@[simp] theorem State.endPeriod_routers (tm : Nat) (s : State) : (s.endPeriod tm).routers = s.routers.map fun r => if r.cfg.timer = tm then r.endPeriod else r := rfl
@[simp] theorem State.endPeriod_cur (tm : Nat) (s : State) : (s.endPeriod tm).cur = s.cur := rfl
@[simp] theorem State.endPeriod_script (tm : Nat) (s : State) : (s.endPeriod tm).script = s.script := rfl
@[simp] theorem State.endPeriod_pos (tm : Nat) (s : State) : (s.endPeriod tm).pos = s.pos := rfl

end Sys2Proof.Machine
end

