-- ==== Sys2Proof/Laws/Operands.lean ====
section
/-! SUPPORT. What the routing policy and the range flag answer, band by band (R42, R43, R44, R47, R62). -/

namespace Sys2Proof.Machine

theorem route_forward {d : Int} (h : Forward d) : route d = some (BitVec.ofNat 7 d.toNat, 0) := by
  simp [route, h.1, h.2]

theorem route_reverse {d : Int} (h : Reverse d) : route d = some (0, BitVec.ofNat 7 (-d).toNat) := by
  have : ¬ (0 ≤ d ∧ d ≤ 100) := by have := h.2; omega
  simp [route, this, h.1, h.2]

theorem route_reject {d : Int} (h : Reject d) : route d = none := by
  have h1 : ¬ (0 ≤ d ∧ d ≤ 100) := by unfold Reject at h; omega
  have h2 : ¬ (-100 < d ∧ d < 0) := by unfold Reject at h; omega
  simp [route, h1, h2]

/-- Every commanded duty lies in one of the three bands (R35). -/
theorem bands (d : Int) : Forward d ∨ Reverse d ∨ Reject d := by
  unfold Forward Reverse Reject; omega

/-- What a routed command is, and what its widths are. -/
theorem route_some {d : Int} {a b : Duty} (h : route d = some (a, b)) :
    (Forward d ∧ (a.toNat : Int) = d ∧ b = 0) ∨ (Reverse d ∧ a = 0 ∧ (b.toNat : Int) = -d) := by
  rcases bands d with hd | hd | hd
  · rw [route_forward hd] at h
    obtain ⟨rfl, rfl⟩ := Prod.mk.injEq .. ▸ Option.some.inj h
    refine .inl ⟨hd, ?_, rfl⟩
    rw [BitVec.toNat_ofNat, Nat.mod_eq_of_lt (by have := hd.2; omega)]
    exact Int.toNat_of_nonneg hd.1
  · rw [route_reverse hd] at h
    obtain ⟨rfl, rfl⟩ := Prod.mk.injEq .. ▸ Option.some.inj h
    refine .inr ⟨hd, rfl, ?_⟩
    rw [BitVec.toNat_ofNat, Nat.mod_eq_of_lt (by have := hd.1; omega)]
    have := hd.2
    omega
  · rw [route_reject hd] at h; cases h

theorem route_none {d : Int} : route d = none ↔ Reject d := by
  refine ⟨fun h => ?_, route_reject⟩
  rcases bands d with hd | hd | hd
  · rw [route_forward hd] at h; cases h
  · rw [route_reverse hd] at h; cases h
  · exact hd

theorem outOfRange_iff {d : Int} : outOfRange d = true ↔ Reject d := by simp [outOfRange]

/-- One of a routed command's two widths is 0 (R49). -/
theorem route_exclusive {d : Int} {a b : Duty} (h : route d = some (a, b)) : a = 0 ∨ b = 0 := by
  obtain ⟨-, -, hb⟩ | ⟨-, ha, -⟩ := route_some h
  · exact .inr hb
  · exact .inl ha

/-- What one transfer does to an instance, band by band (R40): accepted. -/
theorem transfer_accept {d : Int} {a b : Duty} (h : route d = some (a, b)) (r : Router) :
    r.transfer d = { r with
      dutyA := a, dutyB := b, log := r.log ++ [.cmd d, .commit a b]
      beat := some { value := diagWord r.cfg.cmdW d, oor := false }
      chanA := r.chanA.write r.cfg.updateA r.dutyA a, chanB := r.chanB.write r.cfg.updateB r.dutyB b } := by
  have ho : outOfRange d = false := by
    rw [Bool.eq_false_iff, Ne, outOfRange_iff, ← route_none, h]; simp
  simp [Router.transfer, h, ho, Router.emit, Router.commit, Router.putBeat]

/-- What one transfer does to an instance, band by band (R40): rejected. -/
theorem transfer_reject {d : Int} (h : Reject d) (r : Router) :
    r.transfer d = { r with
      log := r.log ++ [.cmd d, .outOfRange], beat := some { value := diagWord r.cfg.cmdW d, oor := true } } := by
  simp [Router.transfer, route_reject h, outOfRange_iff.2 h, Router.emit, Router.putBeat]

/-- A transfer keeps configuration, phase and enable line (R46), whatever the band. -/
theorem transfer_keeps (d : Int) (r : Router) :
    (r.transfer d).cfg = r.cfg ∧ (r.transfer d).phase = r.phase ∧ (r.transfer d).en = r.en := by
  cases h : route d with
  | some ab => rw [transfer_accept (a := ab.1) (b := ab.2) h]; exact ⟨rfl, rfl, rfl⟩
  | none => rw [transfer_reject (route_none.1 h)]; exact ⟨rfl, rfl, rfl⟩

end Sys2Proof.Machine
end

