-- ==== Sys2Proof/Laws/Channels.lean ====
section
/-! SUPPORT. What a channel does when it is written, or follows its input, for each `PWM_UPDATE` (R55, I12, log
entry 12), and what a transfer does to the channel of a leg. -/

namespace Sys2Proof.Machine

@[simp] theorem Channel.follow_immediate (moved : Bool) (new : Duty) (c : Channel) :
    c.follow .immediate moved new = { applied := new, disturbed := c.disturbed || moved } := rfl

@[simp] theorem Channel.follow_periodBoundary (moved : Bool) (new : Duty) (c : Channel) :
    c.follow .periodBoundary moved new = c := rfl

/-- Whatever an immediate channel is written with disturbs the running period: a change as much as a rewrite. -/
@[simp] theorem Channel.write_immediate (old new : Duty) (c : Channel) :
    c.write .immediate old new = { applied := new, disturbed := true } := by
  by_cases h : new = old <;> simp [Channel.write, h]

/-- A period-boundary channel applies what it did, and only a rewrite disturbs its running period. -/
@[simp] theorem Channel.write_periodBoundary (old new : Duty) (c : Channel) :
    c.write .periodBoundary old new =
      { applied := c.applied, disturbed := c.disturbed || decide (new = old) || decide (new = c.applied) } := rfl

/-- An accepted transfer writes the channel of each leg with the leg's new width. -/
theorem transfer_channel_accept {d : Int} {a b : Duty} (h : route d = some (a, b)) (r : Router) (leg : Leg) :
    (r.transfer d).channel leg = (r.channel leg).write (r.update leg) (r.duty leg) ((r.transfer d).duty leg) := by
  rw [transfer_accept h]
  cases leg <;> rfl

/-- A rejected transfer writes no channel. -/
theorem transfer_channel_reject {d : Int} (h : Reject d) (r : Router) (leg : Leg) :
    (r.transfer d).channel leg = r.channel leg := by
  rw [transfer_reject h]
  cases leg <;> rfl

/-- A reset takes the input of each leg's channel to 0. -/
theorem assertReset_channel (r : Router) (leg : Leg) :
    r.assertReset.channel leg = (r.channel leg).follow (r.update leg) (decide (r.duty leg ≠ 0)) 0 := by
  cases leg <;> rfl

/-- Every commit of a whole log has a 0 component. -/
theorem logWhole_commit_exclusive :
    ∀ {es : List Event} {a b : Duty}, logWhole es → .commit a b ∈ es → a = 0 ∨ b = 0
  | .cmd _ :: .commit _ _ :: rest, a, b, h, hm => by
    simp only [List.mem_cons, reduceCtorEq, false_or, Event.commit.injEq] at hm
    rcases hm with ⟨rfl, rfl⟩ | hm
    · exact route_exclusive h.1
    · exact logWhole_commit_exclusive h.2 hm
  | .cmd _ :: .outOfRange :: rest, a, b, h, hm => by
    simp only [List.mem_cons, reduceCtorEq, false_or] at hm
    exact logWhole_commit_exclusive h.2 hm
  | [.cmd _], _, _, h, _ => h.elim
  | .cmd _ :: .cmd _ :: _, _, _, h, _ => h.elim
  | .outOfRange :: _, _, _, h, _ => h.elim
  | .commit _ _ :: _, _, _, h, _ => h.elim

/-- The commit history holds the commits of the log. -/
theorem mem_commitHistory {r : Router} {a b : Duty} : (a, b) ∈ r.commitHistory ↔ .commit a b ∈ r.log := by
  simp only [Router.commitHistory, List.mem_filterMap]
  constructor
  · rintro ⟨e, he, h⟩
    cases e <;> simp_all
  · exact fun h => ⟨_, h, rfl⟩

@[simp] theorem waveHigh_zero (align : PwmAlign) (k : Nat) : waveHigh align 0 k = false := by
  cases align <;> simp [waveHigh]

/-- Where the spec gives no level (I11, I12), the pin's is the free value. -/
theorem pinHigh_free {r : Router} {leg : Leg}
    (h : (r.channel leg).disturbed = true ∨ 100 < (r.channel leg).applied.toNat) (inst pos k : Nat) :
    r.pinHigh inst pos leg k = Config.freePin inst pos leg k := by
  rw [Router.pinHigh, if_pos h]

/-- In a clean period a channel that applies 0 holds its pin low. -/
theorem pinHigh_of_applied_zero {r : Router} {leg : Leg} (hd : (r.channel leg).disturbed = false)
    (h0 : (r.channel leg).applied = 0) (inst pos k : Nat) : r.pinHigh inst pos leg k = false := by
  simp [Router.pinHigh, hd, h0]

end Sys2Proof.Machine
end

