-- ==== Sys2Proof/Laws/Decode.lean ====
section
/-! SUPPORT. What fitting, encoding and decoding say, in integers. -/

namespace Sys2Proof

theorem fits_iff (W : Nat) (v : Int) :
    fits W v = true ↔ -((2 ^ (W - 1) : Nat) : Int) ≤ v ∧ v ≤ ((2 ^ (W - 1) : Nat) : Int) - 1 := by
  simp [fits]

/-- A wider word holds at least the same integers. -/
theorem fits_mono {W W' : Nat} (h : W ≤ W') {v : Int} (hv : fits W v = true) : fits W' v = true := by
  rw [fits_iff] at hv ⊢
  have : 2 ^ (W - 1) ≤ 2 ^ (W' - 1) := Nat.pow_le_pow_right (by omega) (by omega)
  omega

/-- The operand of the word made of a fitting integer is that integer (R33, R7). -/
theorem operandOf_ofInt {W : Nat} (hW : 0 < W) {v : Int} (hv : fits W v = true) :
    operandOf (BitVec.ofInt W v) = v := by
  rw [fits_iff] at hv
  obtain ⟨n, rfl⟩ : ∃ n, W = n + 1 := ⟨W - 1, by omega⟩
  simp only [Nat.add_sub_cancel] at hv
  have hp : 2 ^ (n + 1) = 2 * 2 ^ n := by rw [Nat.pow_succ]; omega
  rw [operandOf, BitVec.toInt_ofInt, Int.bmod_eq_of_le] <;> rw [hp] <;> omega

/-- Every operand fits its word's width. -/
theorem fits_operandOf {W : Nat} (w : BitVec W) : fits W (operandOf w) = true := by
  rw [fits_iff, operandOf]
  have h1 := BitVec.le_toInt w
  have h2 := BitVec.toInt_lt (w := W) (x := w)
  push_cast
  constructor <;> omega

/-- The number of a hexadecimal word is its base 16 value. -/
theorem hexValue_eq (ds : List (Fin 16)) : hexValue ds = Nat.ofDigits 16 (ds.map Fin.val).reverse := by
  have go : ∀ (ds : List (Fin 16)) (n : Nat), ds.foldl (fun n x => 16 * n + x.val) n =
      n * 16 ^ ds.length + Nat.ofDigits 16 (ds.map Fin.val).reverse := by
    intro ds
    induction ds with
    | nil => simp
    | cons x ds ih =>
      intro n
      simp only [List.foldl_cons, ih, List.map_cons, List.reverse_cons, Nat.ofDigits_append, List.length_cons,
        List.length_reverse, List.length_map, Nat.ofDigits_singleton, Nat.pow_succ]
      ring
  simpa [hexValue] using go ds 0

theorem decode_eq_ok {W n : Nat} (h : n < 2 ^ W) :
    decode W n = .ok (.setDuty (operandOf (BitVec.ofNat W n))) := by
  simp [decode, decodeWord, h]

theorem decode_ok_iff {W n : Nat} {i : Instr} :
    decode W n = .ok i ↔ n < 2 ^ W ∧ i = .setDuty (operandOf (BitVec.ofNat W n)) := by
  by_cases h : n < 2 ^ W <;> simp [decode, decodeWord, h, eq_comm]

/-- The operand of a word, by the word read unsigned (R7 `sext`). -/
theorem operandOf_eq {W n : Nat} (h : n < 2 ^ W) :
    operandOf (BitVec.ofNat W n) = if 2 * n < 2 ^ W then (n : Int) else (n : Int) - (2 ^ W : Nat) := by
  rw [operandOf, BitVec.toInt_eq_toNat_cond, BitVec.toNat_ofNat, Nat.mod_eq_of_lt h]

end Sys2Proof
end

