-- ==== Sys2Proof/Laws/Ops.lean ====
section
/-! SUPPORT. What each shared operation, and one step, can do: equations where it runs, one inversion lemma where it
answers a next state. -/

namespace Sys2Proof.Machine

theorem State.putCurrent_eq_steppedTo (s : State) (r : Router) : s.putCurrent r = s.steppedTo r := rfl

/-- A step of the current instance that runs. -/
theorem onCurrent_ok {s : State} {r r' : Router} {f : Router → Except Refusal Router} (h : s.At r)
    (hf : f r = .ok r') : s.onCurrent f = .next (s.steppedTo r') := by
  simp [State.onCurrent, h.config, h.current, hf, State.putCurrent_eq_steppedTo]

/-- A step of the current instance that is refused. -/
theorem onCurrent_error {s : State} {r : Router} {e : Refusal} {f : Router → Except Refusal Router} (h : s.At r)
    (hf : f r = .error e) : s.onCurrent f = .refused e := by
  simp [State.onCurrent, h.config, h.current, hf]

/-- If a step of the current instance answers a next state, only that instance has changed, by `f`. -/
theorem onCurrent_next {s t : State} {f : Router → Except Refusal Router} (h : s.onCurrent f = .next t) :
    ∃ r r', s.At r ∧ f r = .ok r' ∧ t = s.steppedTo r' := by
  unfold State.onCurrent at h
  split at h
  · rename_i hc
    split at h
    · cases h
    · rename_i r hr
      split at h
      · rename_i r' hf
        cases h
        exact ⟨r, r', ⟨hc, hr⟩, hf, rfl⟩
      · cases h
  · cases h

theorem guarded_next {s t : State} {a : Answer} (h : s.guarded a = .next t) : s.configOk = true ∧ a = .next t := by
  unfold State.guarded at h
  split at h
  · exact ⟨‹_›, h⟩
  · cases h

/-- Selecting an instance moves no instance. -/
theorem at_select {s : State} {r : Router} {inst : Nat} (hc : s.configOk = true) (hr : s.routers[inst]? = some r) :
    (s.select inst).At r := ⟨hc, hr⟩

/-- What presenting a command can do to an instance. -/
theorem present_ok {d : Int} {r r' : Router} (h : r.present d = .ok r') :
    fits r.cfg.cmdW d = true ∧
      ((r.phase = .inReset ∧ r' = r.releaseReset) ∨ (r.phase = .active ∧ r' = r.transfer d)) := by
  unfold Router.present at h
  split at h
  · split at h <;> cases h <;> simp_all
  · cases h

theorem present_active {d : Int} {r : Router} (hf : fits r.cfg.cmdW d = true) (ha : r.phase = .active) :
    r.present d = .ok (r.transfer d) := by simp [Router.present, hf, ha]

/-- A ready command runs, and is one transfer. -/
theorem exec_ready {s : State} {r : Router} {d : Int} (h : s.Ready r d) :
    exec (.setDuty d) s = .next (s.steppedTo (r.transfer d)) :=
  onCurrent_ok h.here (present_active h.fit h.active)

/-- What one action of an instance can do to it. -/
inductive Router.Moves (p : PortIn) (r : Router) : Router → Prop where
  | assertReset : p.rst = true → Router.Moves p r r.assertReset
  | releaseReset : p.rst = false → r.phase = .inReset → Router.Moves p r r.releaseReset
  | idlePowerUp : p.rst = false → p.cmdValid = false → r.phase = .powerUp → Router.Moves p r r
  | idleActive : p.rst = false → p.cmdValid = false → r.phase = .active → Router.Moves p r { r with beat := none }
  | transfer : p.rst = false → p.cmdValid = true → r.phase = .active → p.cmdDuty < 2 ^ r.cfg.cmdW →
      Router.Moves p r (r.transfer (operandOf (BitVec.ofNat r.cfg.cmdW p.cmdDuty)))

theorem portWidth_at {s : State} {r : Router} (h : s.current = some r) : s.portWidth = r.cfg.cmdW := by
  simp [State.portWidth, h]

/-- If a step of an instance answers a next state, that instance has made one of its moves, and nothing else has
changed. -/
theorem drivePort_next {s t : State} {p : PortIn} (h : drivePort p s = .next t) :
    ∃ r r', s.At r ∧ Router.Moves p r r' ∧ t = s.steppedTo r' := by
  unfold drivePort at h
  by_cases hrst : p.rst = true
  · rw [if_pos hrst] at h
    obtain ⟨r, r', ha, hf, rfl⟩ := onCurrent_next h
    cases hf
    exact ⟨r, _, ha, .assertReset hrst, rfl⟩
  · rw [if_neg hrst] at h
    have hrst : p.rst = false := by simpa using hrst
    by_cases hv : p.cmdValid = true
    · rw [if_pos hv] at h
      unfold presentWord at h
      split at h
      · rename_i i hi
        obtain ⟨hlt, rfl⟩ := decode_ok_iff.1 hi
        obtain ⟨r, r', ha, hf, rfl⟩ := onCurrent_next h
        rw [portWidth_at ha.current] at hlt hf
        obtain ⟨-, ⟨hp, rfl⟩ | ⟨hp, rfl⟩⟩ := present_ok hf
        · exact ⟨r, _, ha, .releaseReset hrst hp, rfl⟩
        · exact ⟨r, _, ha, .transfer hrst hv hp hlt, rfl⟩
      · obtain ⟨r, r', -, hf, -⟩ := onCurrent_next h
        cases hf
    · rw [if_neg hv] at h
      have hv : p.cmdValid = false := by simpa using hv
      obtain ⟨r, r', ha, hf, rfl⟩ := onCurrent_next h
      cases hf
      refine ⟨r, _, ha, ?_, rfl⟩
      unfold Router.quiet
      split
      · exact .idlePowerUp hrst hv ‹_›
      · exact .releaseReset hrst ‹_›
      · exact .idleActive hrst hv ‹_›

/-- Everything a step can do: an instance makes one of its moves, a timer's period ends, or the host's list is used
up and all is held. -/
theorem step_next {s t : State} (h : step s = .next t) :
    s.configOk = true ∧
    ((∃ inst p r r', s.script[s.pos]? = some (.drive inst p) ∧ s.routers[inst]? = some r ∧ Router.Moves p r r' ∧
        t = (s.select inst).steppedTo r') ∨
     (∃ tm, s.script[s.pos]? = some (.periodBoundary tm) ∧ t = (s.endPeriod tm).advance) ∨
     (s.script[s.pos]? = none ∧ t = s.advance)) := by
  unfold step stepHost at h
  split at h
  · rename_i a ha
    cases a with
    | drive inst p =>
      obtain ⟨r, r', hat, hm, rfl⟩ := drivePort_next h
      exact ⟨hat.config, .inl ⟨inst, p, r, r', ha, hat.current, hm, rfl⟩⟩
    | periodBoundary tm =>
      obtain ⟨hc, ht⟩ := guarded_next h
      cases ht
      exact ⟨hc, .inr (.inl ⟨tm, ha, rfl⟩)⟩
    | configChange inst cfg => cases (guarded_next h).2
    | foreignWrite inst leg v => cases (guarded_next h).2
  · obtain ⟨hc, ht⟩ := guarded_next h
    cases ht
    exact ⟨hc, .inr (.inr ⟨‹_›, rfl⟩)⟩

/-- No move of an instance writes its configuration (R6). -/
theorem moves_cfg {p : PortIn} {r r' : Router} (h : Router.Moves p r r') : r'.cfg = r.cfg := by
  cases h with
  | transfer => exact (transfer_keeps _ r).1
  | _ => rfl

/-- What a step does to one instance of the system: nothing, one of its moves, or the end of its timer's period. -/
theorem step_instance {s t : State} (h : step s = .next t) {k : Nat} {r : Router} (hr : s.routers[k]? = some r) :
    ∃ r', t.routers[k]? = some r' ∧
      (r' = r ∨ (∃ p, s.script[s.pos]? = some (.drive k p) ∧ Router.Moves p r r') ∨ r' = r.endPeriod) := by
  obtain ⟨-, ⟨inst, p, r₀, r₀', ha, h₀, hm, rfl⟩ | ⟨tm, -, rfl⟩ | ⟨-, rfl⟩⟩ := step_next h
  · by_cases hk : inst = k
    · subst hk
      obtain rfl : r₀ = r := by simpa [h₀] using hr
      have hlt : inst < s.routers.length := (List.getElem?_eq_some_iff.1 hr).1
      exact ⟨r₀', by simp [hlt], .inr (.inl ⟨p, ha, hm⟩)⟩
    · exact ⟨r, by simp [hk, hr], .inl rfl⟩
  · by_cases htm : r.cfg.timer = tm
    · exact ⟨r.endPeriod, by simp [hr, htm], .inr (.inr rfl)⟩
    · exact ⟨r, by simp [hr, htm], .inl rfl⟩
  · exact ⟨r, hr, .inl rfl⟩

end Sys2Proof.Machine
end

