-- ==== Sys2Proof/Laws/PerInstr.lean ====
section
/-! SUPPORT. Statements about every instruction as syntax, one lemma per constructor. -/

/-- An instruction that exists at one width exists at every greater one. -/
def Sys2Proof.Laws.WiderPort.Statement (i : Sys2Proof.Instr) : Prop :=
  ∀ W W', W ≤ W' → Sys2Proof.Instr.wellFormed W i = true → Sys2Proof.Instr.wellFormed W' i = true

theorem Sys2Proof.Laws.WiderPort.setDuty (d : Int) : Sys2Proof.Laws.WiderPort.Statement (.setDuty d) :=
  fun _ _ h hv => Sys2Proof.fits_mono h hv
end

