-- ==== Sys2Proof/Laws/Runs.lean ====
section
/-! SUPPORT. What carries over from one step to the next: the configuration, the instance a step is of, the equations
of each kind of step of an instance, and the one induction pattern for properties of every instance. -/

namespace Sys2Proof.Machine

/-! ### Configurations -/

theorem configsWellFormed_all : ∀ {cs : List Config}, configsWellFormed cs = true → ∀ c ∈ cs, c.wellFormed = true
  | [], _, _, h => absurd h (by simp)
  | _ :: cs, h, c, hc => by
    simp only [configsWellFormed, Bool.and_eq_true] at h
    rcases List.mem_cons.1 hc with rfl | hc
    · exact h.1.1
    · exact configsWellFormed_all h.2 c hc

theorem configsWellFormed_pairwise :
    ∀ {cs : List Config}, configsWellFormed cs = true → cs.Pairwise fun c c' => c.compatible c' = true
  | [], _ => .nil
  | _ :: cs, h => by
    simp only [configsWellFormed, Bool.and_eq_true, List.all_eq_true] at h
    exact .cons h.1.2 (configsWellFormed_pairwise h.2)

/-- Two instances of a well-formed system are compatible, one way or the other. -/
theorem configOk_compatible {s : State} {j k : Nat} {r r' : Router} (hc : s.configOk = true)
    (hj : s.routers[j]? = some r) (hk : s.routers[k]? = some r') (hjk : j ≠ k) :
    r.cfg.compatible r'.cfg = true ∨ r'.cfg.compatible r.cfg = true := by
  have hp := List.pairwise_iff_getElem.1 (configsWellFormed_pairwise hc)
  obtain ⟨hj₁, hj₂⟩ := List.getElem?_eq_some_iff.1 hj
  obtain ⟨hk₁, hk₂⟩ := List.getElem?_eq_some_iff.1 hk
  rcases Nat.lt_or_gt_of_ne hjk with h | h
  · left
    have := hp j k (by simpa using hj₁) (by simpa using hk₁) h
    simpa [hj₂, hk₂] using this
  · right
    have := hp k j (by simpa using hk₁) (by simpa using hj₁) h
    simpa [hj₂, hk₂] using this

/-- An instance of a well-formed system has a port of at least 8 bits (R4). -/
theorem State.At.cmdW_ge {s : State} {r : Router} (h : s.At r) : 8 ≤ r.cfg.cmdW := by
  have hw := configsWellFormed_all h.config r.cfg (List.mem_map_of_mem (List.mem_of_getElem? h.current))
  simp only [Config.wellFormed, Bool.and_eq_true, decide_eq_true_eq] at hw
  omega

/-! ### The instance a step is of -/

theorem steppedTo_steppedTo (s : State) (r r' : Router) : (s.steppedTo r).steppedTo r' = s.steppedTo r' := by
  simp [State.steppedTo]

/-- After a step that keeps the configuration, the current instance is the one stepped to. -/
theorem State.At.steppedTo {s : State} {r r' : Router} (h : s.At r) (hc : r'.cfg = r.cfg) :
    (s.steppedTo r').At r' := by
  obtain ⟨hlt, hget⟩ := List.getElem?_eq_some_iff.1 h.current
  refine ⟨?_, by simp [State.current, State.steppedTo, hlt]⟩
  rw [← h.config, State.configOk, State.configOk, State.steppedTo_routers, List.map_set, hc, ← hget,
    ← List.getElem_map (f := Router.cfg) (h := by simpa using hlt), List.set_getElem_self]

theorem routers_select_steppedTo {s : State} {r r' : Router} {inst : Nat} (h : s.routers[inst]? = some r) :
    ((s.select inst).steppedTo r').routers[inst]? = some r' := by
  simp [(List.getElem?_eq_some_iff.1 h).1]

theorem configOk_select_steppedTo {s : State} {r r' : Router} {inst : Nat} (hc : s.configOk = true)
    (h : s.routers[inst]? = some r) (hr : r'.cfg = r.cfg) : ((s.select inst).steppedTo r').configOk = true :=
  ((at_select hc h).steppedTo hr).config

/-! ### Each kind of step of an instance -/

theorem drivePort_reset {s : State} {r : Router} {p : PortIn} (h : s.At r) (hp : p.rst = true) :
    drivePort p s = .next (s.steppedTo r.assertReset) := by
  rw [drivePort, if_pos hp]
  exact onCurrent_ok h rfl

theorem drivePort_quiet {s : State} {r : Router} {p : PortIn} (h : s.At r) (hp : p.rst = false)
    (hv : p.cmdValid = false) : drivePort p s = .next (s.steppedTo r.quiet) := by
  rw [drivePort, if_neg (by simp [hp]), if_neg (by simp [hv])]
  exact onCurrent_ok h rfl

/-- A word of the port, presented, runs as the instruction it decodes to. -/
theorem presentWord_eq {s : State} {r : Router} {n : Nat} (h : s.At r) (hn : n < 2 ^ r.cfg.cmdW) :
    presentWord n s = exec (.setDuty (operandOf (BitVec.ofNat r.cfg.cmdW n))) s := by
  simp [presentWord, portWidth_at h.current, decode_eq_ok hn]

theorem drivePort_command {s : State} {r : Router} {p : PortIn} (h : s.At r) (hp : p.rst = false)
    (hv : p.cmdValid = true) (hn : p.cmdDuty < 2 ^ r.cfg.cmdW) :
    drivePort p s = exec (.setDuty (operandOf (BitVec.ofNat r.cfg.cmdW p.cmdDuty))) s := by
  rw [drivePort, if_neg (by simp [hp]), if_pos hv, presentWord_eq h hn]

/-- In ACTIVE every word of the port is ready to be transferred. -/
theorem State.At.ready {s : State} {r : Router} (h : s.At r) (ha : r.phase = .active) (w : BitVec r.cfg.cmdW) :
    s.Ready r (operandOf w) := ⟨h, ha, fits_operandOf w⟩

theorem drivePort_transfer {s : State} {r : Router} {p : PortIn} (h : s.At r) (ha : r.phase = .active)
    (hp : p.rst = false) (hv : p.cmdValid = true) (hn : p.cmdDuty < 2 ^ r.cfg.cmdW) :
    drivePort p s = .next (s.steppedTo (r.transfer (operandOf (BitVec.ofNat r.cfg.cmdW p.cmdDuty)))) := by
  rw [drivePort_command h hp hv hn]
  exact exec_ready (h.ready ha _)

/-- The word on a beat is the word that was transferred. -/
theorem diagWord_operandOf {W n : Nat} (h : n < 2 ^ W) : diagWord W (operandOf (BitVec.ofNat W n)) = n := by
  simp [diagWord, operandOf, Nat.mod_eq_of_lt h]

/-! ### Properties of every instance -/

/-- A step neither adds nor removes an instance. -/
theorem step_length {s t : State} (h : step s = .next t) : t.routers.length = s.routers.length := by
  obtain ⟨-, ⟨inst, p, r, r', -, -, -, rfl⟩ | ⟨tm, -, rfl⟩ | ⟨-, rfl⟩⟩ := step_next h <;> simp

/-- A property of instances that every move and the end of a period keep is kept, of every instance, by every step. -/
theorem step_keeps {Q : Router → Prop} (hm : ∀ p r r', Q r → Router.Moves p r r' → Q r')
    (he : ∀ r, Q r → Q r.endPeriod) {s t : State} (hs : ∀ r ∈ s.routers, Q r) (h : step s = .next t) :
    ∀ r ∈ t.routers, Q r := by
  intro r' hr'
  obtain ⟨k, hk⟩ := List.mem_iff_getElem?.1 hr'
  have hlt : k < s.routers.length := step_length h ▸ (List.getElem?_eq_some_iff.1 hk).1
  obtain ⟨r'', h₁, h₂⟩ := step_instance h (List.getElem?_eq_getElem hlt)
  obtain rfl : r' = r'' := Option.some.inj (hk.symm.trans h₁)
  have hr := hs _ (List.getElem_mem hlt)
  rcases h₂ with rfl | ⟨p, -, hmv⟩ | rfl
  · exact hr
  · exact hm _ _ _ hr hmv
  · exact he _ hr

end Sys2Proof.Machine
end

