-- ==== Sys2Proof/Tests/Slice0.lean ====
section
/-! SUPPORT. Tests. Expected results are the spec's: 95_test_vectors, the tables of 30_encoding, or a calculation by
hand from a rule, named at each. Then, for every obligation with hypotheses, states and operands that meet them. -/

namespace Sys2Proof.Tests

open Sys2Proof Sys2Proof.Machine

/-! ### Well-formedness: an ill-formed term for each check -/

theorem test_illformed_operand_above : (Instr.setDuty 32768).wellFormed 16 = false := by decide
theorem test_illformed_operand_below : (Instr.setDuty (-32769)).wellFormed 16 = false := by decide
/-- 2.2: 150 cannot be presented at `CMD_W = 8`. -/
theorem test_illformed_150_at_8 : (Instr.setDuty 150).wellFormed 8 = false := by decide
theorem test_wellformed_boundaries :
    (Instr.setDuty 32767).wellFormed 16 = true ∧ (Instr.setDuty (-32768)).wellFormed 16 = true := by decide

theorem test_illformed_config :
    { referenceConfig with cmdW := 7 }.wellFormed = false ∧ { referenceConfig with chB := 1 }.wellFormed = false ∧
    { referenceConfig with pwmFreq := 0 }.wellFormed = false ∧
    { referenceConfig with timerRuns := false }.wellFormed = false ∧
    { referenceConfig with boundA := false }.wellFormed = false ∧
    { referenceConfig with boundB := false }.wellFormed = false ∧
    { referenceConfig with soleOwner := false }.wellFormed = false ∧ referenceConfig.wellFormed = true := by decide

/-- The second instance of 2.8. -/
def secondConfig : Config := { referenceConfig with chA := 3, chB := 4, enRes := 1 }

/-- 2.8: M2 on `CH_A = 2`, shared with M1, is refused; and each further check of two instances. -/
theorem test_illformed_pair :
    referenceConfig.compatible secondConfig = true ∧
    referenceConfig.compatible { secondConfig with chA := 1 } = false ∧
    referenceConfig.compatible { secondConfig with chA := 2 } = false ∧
    referenceConfig.compatible { secondConfig with chB := 1 } = false ∧
    referenceConfig.compatible { secondConfig with chB := 2 } = false ∧
    referenceConfig.compatible { secondConfig with enRes := 0 } = false ∧
    referenceConfig.compatible { secondConfig with pwmFreq := 1 } = false ∧
    referenceConfig.compatible { secondConfig with chA := 2, timer := 9 } = true := by decide

/-! ### Words written out from the encoding (R32, R33, R36) -/

theorem test_decode_minus_30 : decodeTableWord 16 0b1111111111100010 = some (.setDuty (-30)) := by decide
theorem test_decode_50 : decodeTableWord 16 0b0000000000110010 = some (.setDuty 50) := by decide
theorem test_decode_minus_100 : decodeTableWord 16 0b1111111110011100 = some (.setDuty (-100)) := by decide
/-- 2.1: the low byte alone would read `0x80`. -/
theorem test_decode_minus_128 : decodeTableWord 16 0b1111111110000000 = some (.setDuty (-128)) := by decide
theorem test_decode_128 : decodeTableWord 16 0b0000000010000000 = some (.setDuty 128) := by decide
/-- A number that is no 8-bit word is refused by name. -/
theorem test_decode_too_wide : decode 8 0x100 = .error .wordTooWide := by decide
theorem test_encode_minus_99 : encode 16 (.setDuty (-99)) = some 0xFF9D := by decide
/-- R39: 65586 would wrap to 50. -/
theorem test_encode_never_wraps : encode 16 (.setDuty 65586) = none := by decide
/-- R24: `0xFFE2` over a link, in both byte orders, and a byte short. -/
theorem test_link_orders :
    decodeLink .lowFirst 16 [0xE2, 0xFF] = .ok (.setDuty (-30)) ∧
    decodeLink .highFirst 16 [0xFF, 0xE2] = .ok (.setDuty (-30)) ∧
    decodeLink .lowFirst 16 [0xE2] = .error .wrongByteCount := by decide
/-- P2: the raw word `0x8000`; at width 16 a word has exactly four digits. -/
theorem test_assemble_hex :
    assemble 16 false (.setDutyHex [8, 0, 0, 0]) = .ok ([PortIn.command false 0x8000], false) ∧
    assemble 16 false (.setDutyHex [8, 0, 0]) = .error .badHexWord ∧
    assemble 10 false (.setDutyHex [4, 0, 0]) = .error .badHexWord := by decide
/-- R38: a raised `rst` stays raised until it is lowered. -/
theorem test_assemble_held_reset :
    assembleAll 16 false [.rstAssert, .idle 1, .rstRelease, .setDuty (-30)] =
      .ok [PortIn.quiet true, PortIn.quiet true, PortIn.quiet false, PortIn.command false 0xFFE2] := by decide

/-! ### One step -/

/-- An instance of the reference configuration. -/
def unit (phase : Phase) (a b : Duty) (en : Bool) : Router :=
  { Router.entry referenceConfig with phase := phase, dutyA := a, dutyB := b, en := en }

/-- A system of one instance, with the host's list. -/
def one (r : Router) (acts : List HostAction) : State := { routers := [r], cur := 0, script := acts, pos := 0 }

/-- The registers and the enable line of every instance after an answer. -/
def regs : Answer → List (Phase × Duty × Duty × Bool)
  | .next t => t.routers.map fun r => (r.phase, r.dutyA, r.dutyB, r.en)
  | _ => []

/-- The logs of every instance after an answer. -/
def logs : Answer → List (List Event)
  | .next t => t.routers.map Router.log
  | _ => []

/-- The refusal of an answer. -/
def refusal : Answer → Option Refusal
  | .refused e => some e
  | _ => none

/-- The action that presents a command word to the first instance. -/
def present (w : Nat) : HostAction := .drive 0 (PortIn.command false w)

/-- 2.3: REVERSE `(0, 30)`, `SET_DUTY 40`: one commit to `(40, 0)`. -/
theorem test_setDuty_reverse_to_forward :
    regs (step (one (unit .active 0 30 true) [present 0x0028])) = [(.active, 40, 0, true)] ∧
    logs (step (one (unit .active 0 30 true) [present 0x0028])) = [[.cmd 40, .commit 40 0]] := by decide
/-- 2.3, S4: REVERSE `(0, 30)`, `SET_DUTY -100`: rejected, the direction kept. -/
theorem test_setDuty_rejects_minus_100 :
    regs (step (one (unit .active 0 30 true) [present 0xFF9C])) = [(.active, 0, 30, true)] ∧
    logs (step (one (unit .active 0 30 true) [present 0xFF9C])) = [[.cmd (-100), .outOfRange]] := by decide
/-- 2.5: `rst = 1` and a command in the same step. -/
theorem test_reset_wins :
    regs (step (one (unit .active 60 0 true) [.drive 0 (PortIn.command true 0xFFEC)])) = [(.inReset, 0, 0, false)] ∧
    logs (step (one (unit .active 60 0 true) [.drive 0 (PortIn.command true 0xFFEC)])) = [[]] := by decide
/-- 2.5: the release; a command presented in it is not taken (R75). -/
theorem test_release :
    regs (step (one (unit .inReset 0 0 false) [present 0x0028])) = [(.active, 0, 0, true)] ∧
    logs (step (one (unit .inReset 0 0 false) [present 0x0028])) = [[]] := by decide
/-- 2.5: a command in POWERUP. -/
theorem test_powerup_command_refused :
    refusal (step (one (unit .powerUp 3 4 false) [present 10])) = some .commandInPowerUp := by decide
/-- 2.5: an idle step. -/
theorem test_idle : regs (step (one (unit .active 0 45 true) [.drive 0 (PortIn.quiet false)])) =
    [(.active, 0, 45, true)] := by decide
/-- 2.8, step 2: `SET_DUTY -60` on the second instance. -/
theorem test_second_instance :
    regs (step { one (unit .active 40 0 true) [.drive 1 (PortIn.command false 0xFFC4)] with
      routers := [unit .active 40 0 true, Router.entry secondConfig] }) =
      [(.active, 40, 0, true), (.active, 0, 60, true)] := by decide
/-- 2.4: the gates on `0xFF9D` and on `0xFF9C`. -/
theorem test_gates :
    ((gates (0xFF9D : BitVec 16)).selB, (gates (0xFF9D : BitVec 16)).mag, (gates (0xFF9D : BitVec 16)).accept) =
      (true, 99, true) ∧
    ((gates (0xFF9C : BitVec 16)).fwdOk, (gates (0xFF9C : BitVec 16)).revOk, (gates (0xFF9C : BitVec 16)).oor) =
      (false, false, true) := by decide
/-- A table word runs as the first instruction after reset. -/
theorem test_fetch_after_reset :
    regs (step (State.reset.withFetchWord 16 0xFFE2)) = [(.active, 0, 30, true)] := by decide
/-- 2.7: at `(50, 0)` pin A is high for half of the period: 100 slots from its start, or about its middle. -/
theorem test_half_period :
    waveHigh .edge 50 0 = true ∧ waveHigh .edge 50 99 = true ∧ waveHigh .edge 50 100 = false ∧
    waveHigh .centre 50 49 = false ∧ waveHigh .centre 50 50 = true ∧ waveHigh .centre 50 149 = true ∧
    waveHigh .centre 50 150 = false := by decide

/-! ### Witnesses: what meets the hypotheses of the obligations -/

/-- REVERSE at 30 percent, ready for any command. -/
def held : Router := unit .active 0 30 true

/-- A system whose current instance is `held`. -/
def heldState (acts : List HostAction) : State := one held acts

/-- `held` on a platform whose channels apply a width at once. -/
def swift : Router := { held with cfg := { referenceConfig with updateA := .immediate, updateB := .immediate } }

theorem held_at (acts : List HostAction) : (heldState acts).At held := ⟨rfl, rfl⟩

theorem held_ready (acts : List HostAction) {d : Int} (h : fits 16 d = true) : (heldState acts).Ready held d :=
  ⟨held_at acts, rfl, h⟩

theorem one_at (p : Phase) (a b : Duty) (en : Bool) (acts : List HostAction) :
    (one (unit p a b en) acts).At (unit p a b en) := ⟨rfl, rfl⟩

theorem witness_DecodeOfEncodeIsTheInstruction : 8 ≤ 16 ∧ (Instr.setDuty (-32768)).wellFormed 16 = true := by decide
theorem witness_EncodeOfDecodeIsTheWord : 8 ≤ 8 := by decide
theorem witness_OperandIsEncodedOrRefused_in : 8 ≤ 16 ∧ fits 16 32767 = true ∧ fits 16 (-32768) = true := by decide
theorem witness_OperandIsEncodedOrRefused_out : 8 ≤ 16 ∧ fits 16 32768 = false ∧ fits 16 (-32769) = false := by decide
theorem witness_EveryWordHasItsValueClass :
    (8 ≤ 16 ∧ 0xFF9C < 2 ^ 16) ∧ classOfWord 16 0x64 = .fwd ∧ classOfWord 16 0x65 = .rejAbove ∧
    classOfWord 16 0x7FFF = .rejAbove ∧ classOfWord 16 0x8000 = .rejBelow ∧ classOfWord 16 0xFF9C = .rejBelow ∧
    classOfWord 16 0xFF9D = .rev := by decide
theorem witness_ForwardCommandCommits :
    ((heldState []).Ready held 0 ∧ Forward 0) ∧ ((heldState []).Ready held 100 ∧ Forward 100) :=
  ⟨⟨held_ready [] (by decide), by decide⟩, held_ready [] (by decide), by decide⟩
theorem witness_ReverseCommandCommits :
    ((heldState []).Ready held (-1) ∧ Reverse (-1)) ∧ ((heldState []).Ready held (-99) ∧ Reverse (-99)) :=
  ⟨⟨held_ready [] (by decide), by decide⟩, held_ready [] (by decide), by decide⟩
theorem witness_RejectedCommandWritesNothing :
    ((heldState []).Ready held (-100) ∧ Reject (-100)) ∧ ((heldState []).Ready held 101 ∧ Reject 101) :=
  ⟨⟨held_ready [] (by decide), by decide⟩, held_ready [] (by decide), by decide⟩
/-- Accepted and rejected, and each `PWM_UPDATE`: `held` has both channels at the period's end, `swift` at once. -/
theorem witness_CommandDrivesItsChannels :
    ((heldState []).Ready held 100 ∧ ¬ Reject 100 ∧ held.update .a = .periodBoundary) ∧
    ((one swift []).Ready swift (-99) ∧ ¬ Reject (-99) ∧ swift.update .b = .immediate) ∧
    ((heldState []).Ready held 101 ∧ Reject 101) :=
  ⟨⟨held_ready [] (by decide), by decide, rfl⟩, ⟨⟨⟨rfl, rfl⟩, rfl, by decide⟩, by decide, rfl⟩,
    held_ready [] (by decide), by decide⟩
/-- 2.3 on the channels (R55, I12): `SET_DUTY 40` moves both widths of `held`, and neither channel's period is
disturbed; `SET_DUTY -30` rewrites both, and both are. -/
theorem test_channel_rewrite_disturbs :
    ((held.transfer 40).chanA.disturbed, (held.endPeriod.transfer 40).chanB.disturbed) = (false, false) ∧
    ((held.transfer (-30)).chanA.disturbed, (held.transfer (-30)).chanB.disturbed) = (true, true) := by decide
theorem witness_CommandValueIsReportedFirst : (heldState []).Ready held (-100) := held_ready [] (by decide)
theorem witness_RangeErrorExactlyOutOfRange :
    ((heldState []).Ready held (-100) ∧ Reject (-100)) ∧ ((heldState []).Ready held (-99) ∧ ¬ Reject (-99)) :=
  ⟨⟨held_ready [] (by decide), by decide⟩, held_ready [] (by decide), by decide⟩
theorem witness_CommandKeepsEnableAndPhase : (heldState []).Ready held 0 := held_ready [] (by decide)
theorem witness_BeatStandsForItsEvents : (heldState []).Ready held 100 ∧ (heldState []).Ready held (-100) :=
  ⟨held_ready [] (by decide), held_ready [] (by decide)⟩
theorem witness_CommandIsIdempotent : (heldState []).Ready held 60 := held_ready [] (by decide)
theorem witness_DirectionFollowsTheCommand :
    (heldState []).Ready held 0 ∧ (heldState []).Ready held (-1) ∧ (heldState []).Ready held (-100) ∧
    Forward 0 ∧ Reverse (-1) ∧ Reject (-100) :=
  ⟨held_ready [] (by decide), held_ready [] (by decide), held_ready [] (by decide), by decide, by decide, by decide⟩
theorem witness_AcceptedWidthsForgetTheState :
    (heldState []).Ready held 40 ∧ (one (unit .active 75 0 true) []).Ready (unit .active 75 0 true) 40 ∧ ¬ Reject 40 :=
  ⟨held_ready [] (by decide), ⟨one_at _ _ _ _ _, rfl, by decide⟩, by decide⟩
theorem witness_ReachableWidthsAreAsymmetric :
    ((heldState []).Ready held 100 ∧ ¬ Reject 100) ∧ ((heldState []).Ready held (-99) ∧ ¬ Reject (-99)) :=
  ⟨⟨held_ready [] (by decide), by decide⟩, held_ready [] (by decide), by decide⟩
theorem witness_GatesAgreeWithRouting : 8 ≤ 8 ∧ (gates (0x9D : BitVec 8)).accept = true ∧
    (gates (0x9C : BitVec 8)).accept = false := by decide
theorem witness_PresentedWordLoadsTheGates : (heldState []).At held ∧ held.phase = .active := ⟨held_at [], rfl⟩
theorem witness_CommandInPowerUpIsRefused :
    (one (unit .powerUp 3 4 false) []).At (unit .powerUp 3 4 false) ∧ (unit .powerUp 3 4 false).phase = .powerUp ∧
    fits 16 10 = true := ⟨one_at _ _ _ _ _, rfl, by decide⟩
theorem witness_CommandInResetIsNotTaken :
    (one (unit .inReset 0 0 false) []).At (unit .inReset 0 0 false) ∧ (unit .inReset 0 0 false).phase = .inReset ∧
    fits 16 10 = true := ⟨one_at _ _ _ _ _, rfl, by decide⟩
theorem witness_OperandTooWideIsRefused : (heldState []).At held ∧ fits 16 32768 = false := ⟨held_at [], by decide⟩
/-- A command; a reset step with a command; an idle step. -/
theorem witness_StepRunsTheDecodedInstruction :
    ((heldState [present 0xFFE2]).script[0]? = some (.drive 0 (PortIn.command false 0xFFE2)) ∧
      (PortIn.command false 0xFFE2).rst = false ∧ (PortIn.command false 0xFFE2).cmdValid = true ∧
      (heldState [present 0xFFE2]).routers[0]? = some held ∧ decode 16 0xFFE2 = .ok (.setDuty (-30))) ∧
    (heldState [.drive 0 (PortIn.command true 7)]).script[0]? = some (.drive 0 (PortIn.command true 7)) ∧
    (heldState [.drive 0 (PortIn.quiet false)]).script[0]? = some (.drive 0 (PortIn.quiet false)) :=
  ⟨⟨rfl, rfl, rfl, rfl, by decide⟩, rfl, rfl⟩
theorem witness_ResetStepClearsTheInstance :
    (heldState []).At held ∧ (PortIn.command true 0xFFEC).rst = true := ⟨held_at [], rfl⟩
theorem witness_ReleaseStepConstructs :
    (one (unit .inReset 0 0 false) []).At (unit .inReset 0 0 false) ∧ (unit .inReset 0 0 false).phase = .inReset ∧
    (PortIn.command false 0x28).rst = false ∧ (PortIn.command false 0x28).cmdDuty < 2 ^ 16 :=
  ⟨one_at _ _ _ _ _, rfl, rfl, by decide⟩
theorem witness_IdleStepChangesNothing :
    (heldState []).At held ∧ (one (unit .powerUp 3 4 false) []).At (unit .powerUp 3 4 false) ∧
    (one (unit .inReset 0 0 false) []).At (unit .inReset 0 0 false) ∧
    (PortIn.quiet false).rst = false ∧ (PortIn.quiet false).cmdValid = false :=
  ⟨held_at [], one_at _ _ _ _ _, one_at _ _ _ _ _, rfl, rfl⟩
/-- A reset step with a command, for each `PWM_UPDATE`; a release with a command; an idle step. -/
theorem witness_HostStepsDriveTheChannels :
    ((heldState []).At held ∧ (PortIn.command true 7).rst = true ∧ held.update .a = .periodBoundary) ∧
    ((one swift []).At swift ∧ (PortIn.command true 7).rst = true ∧ swift.update .b = .immediate) ∧
    ((one (unit .inReset 0 0 false) []).At (unit .inReset 0 0 false) ∧ (unit .inReset 0 0 false).phase = .inReset ∧
      (PortIn.command false 0x28).cmdDuty < 2 ^ 16) ∧
    ((PortIn.quiet false).rst = false ∧ (PortIn.quiet false).cmdValid = false) :=
  ⟨⟨held_at [], rfl, rfl⟩, ⟨⟨rfl, rfl⟩, rfl, rfl⟩, ⟨one_at _ _ _ _ _, rfl, by decide⟩, rfl, rfl⟩
theorem witness_ResetDirectiveConstructsAgain :
    (one (unit .powerUp 99 99 false) []).configOk = true ∧
    (one (unit .powerUp 99 99 false) []).routers[0]? = some (unit .powerUp 99 99 false) := ⟨rfl, rfl⟩
theorem witness_IdleDirectiveHoldsForever :
    (heldState []).configOk = true ∧ (heldState []).routers[0]? = some held ∧ held.phase = .active := ⟨rfl, rfl, rfl⟩
theorem witness_AssembledCommandRuns : (heldState []).At held ∧
    assemble 16 false (.setDuty (-30)) = .ok ([PortIn.command false 0xFFE2], false) := ⟨held_at [], by decide⟩
/-- `0xFFE2` (S2) is a word of four digits; three digits, and at 10 bits the word `0x400`, are refused. -/
theorem witness_HexadecimalWordIsTheRawWord :
    (heldState []).At held ∧ 0xFFE2 = Nat.ofDigits 16 (([15, 15, 14, 2] : List (Fin 16)).map Fin.val).reverse ∧
    (([15, 15, 14, 2] : List (Fin 16)).length = (16 + 3) / 4 ∧ 0xFFE2 < 2 ^ 16) ∧
    ¬ (([15, 14, 2] : List (Fin 16)).length = (16 + 3) / 4 ∧ 0xFE2 < 2 ^ 16) ∧
    ¬ (([4, 0, 0] : List (Fin 16)).length = (10 + 3) / 4 ∧ 0x400 < 2 ^ 10) :=
  ⟨held_at [], by decide, by decide, by decide, by decide⟩
theorem witness_CommandReadyByPhase : held.phase = .active ∧ (unit .inReset 0 0 false).phase = .inReset := ⟨rfl, rfl⟩
theorem witness_ActiveInstanceTakesEveryWord :
    (heldState []).At held ∧ held.phase = .active ∧ (PortIn.command false 0xFFFF).rst = false ∧
    (PortIn.command false 0xFFFF).cmdValid = true ∧ (PortIn.command false 0xFFFF).cmdDuty < 2 ^ 16 :=
  ⟨held_at [], rfl, rfl, rfl, by decide⟩
theorem witness_PortsShowTheTransfer :
    (heldState []).At held ∧ held.phase = .active ∧ (PortIn.command false 0xFF9C).rst = false ∧
    (PortIn.command false 0xFF9C).cmdValid = true ∧ (PortIn.command false 0xFF9C).cmdDuty < 2 ^ 16 :=
  ⟨held_at [], rfl, rfl, rfl, by decide⟩
theorem witness_NoTransferNoBeat :
    ((heldState []).At held ∧ (PortIn.command true 7).cmdDuty < 2 ^ 16 ∧ (PortIn.command true 7).rst = true) ∧
    ((one (unit .inReset 0 0 false) []).At (unit .inReset 0 0 false) ∧ (unit .inReset 0 0 false).phase = .inReset) ∧
    (held.phase = .active ∧ (PortIn.quiet false).cmdValid = false) :=
  ⟨⟨held_at [], by decide, rfl⟩, ⟨one_at _ _ _ _ _, rfl⟩, rfl, rfl⟩
theorem witness_AllowedActionsHaveSteps :
    ((heldState [present 0xFFFF]).configOk = true ∧
      (heldState [present 0xFFFF]).script[0]? = some (present 0xFFFF) ∧
      (heldState [present 0xFFFF]).Allowed (present 0xFFFF)) ∧
    ((heldState [.periodBoundary 0]).script[0]? = some (.periodBoundary 0) ∧
      (heldState [.periodBoundary 0]).Allowed (.periodBoundary 0)) :=
  ⟨⟨rfl, rfl, held, rfl, fun _ _ => ⟨by decide, by decide⟩⟩, rfl, trivial⟩
theorem witness_ListUsedUpHoldsAll : (heldState []).configOk = true ∧ (heldState []).script[0]? = none := ⟨rfl, rfl⟩
theorem witness_ForeignActionsAreRefused :
    (heldState [.configChange 0 secondConfig]).configOk = true ∧
    (heldState [.configChange 0 secondConfig]).script[0]? = some (.configChange 0 secondConfig) ∧
    (heldState [.foreignWrite 0 .a 5]).configOk = true ∧
    (heldState [.foreignWrite 0 .a 5]).script[0]? = some (.foreignWrite 0 .a 5) := ⟨rfl, rfl, rfl, rfl⟩
theorem witness_MissingInstanceIsRefused :
    (heldState [.drive 1 (PortIn.quiet true)]).configOk = true ∧
    (heldState [.drive 1 (PortIn.quiet true)]).routers[1]? = none ∧
    (heldState [.drive 1 (PortIn.quiet true)]).script[0]? = some (.drive 1 (PortIn.quiet true)) := ⟨rfl, rfl, rfl⟩
/-- Two instances that share channel 2 of timer 0: 2.8's refused configuration. -/
theorem witness_IllFormedConfigurationIsRefused :
    { one held [] with routers := [held, Router.entry { secondConfig with chA := 2 }] }.configOk = false := rfl
theorem witness_SharedChannelIsIllFormed :
    (0 ≠ 1 ∧ held.cfg.timer = secondConfig.timer ∧ held.cfg.chB = { secondConfig with chA := 2 }.chA) ∧
    (Router.entry { referenceConfig with chB := 1 }).cfg.chA = (Router.entry { referenceConfig with chB := 1 }).cfg.chB :=
  ⟨⟨by decide, rfl, rfl⟩, rfl⟩
theorem witness_SharedTimerSharesItsPeriod :
    { one held [] with routers := [held, Router.entry secondConfig] }.configOk = true ∧
    held.cfg.timer = (Router.entry secondConfig).cfg.timer := ⟨rfl, rfl⟩

theorem held_inv : held.Inv := by
  constructor <;> decide

theorem heldState_inv (acts : List HostAction) : (heldState acts).Inv := by
  intro r hr
  obtain rfl : r = held := by simpa [heldState, one] using hr
  exact held_inv

/-- A state of the premise and the step from it, for every rule of the whole machine: REVERSE at 30 percent, a command
to go forward. -/
theorem witness_StepKeepsTheInvariant : ∃ t, (heldState [present 40]).Inv ∧ step (heldState [present 40]) = .next t :=
  ⟨_, heldState_inv _, rfl⟩
theorem witness_StepKeepsTheLogsWhole :
    ∃ t, (heldState [present 40]).LogsWhole ∧ step (heldState [present 40]) = .next t := by
  refine ⟨_, ?_, rfl⟩
  intro r hr
  obtain rfl : r = held := by simpa [heldState, one] using hr
  trivial
theorem witness_OnlyTransfersAppendEvents :
    ∃ t, step (heldState [present 40]) = .next t ∧ (heldState [present 40]).routers[0]? = some held ∧
      transfers 0 (PortIn.command false 40) held := ⟨_, rfl, rfl, rfl, rfl⟩
theorem witness_ConfigurationNeverChanges : ∃ t, step (heldState [present 40]) = .next t := ⟨_, rfl⟩
theorem witness_OnlyResetLowersEnable :
    ∃ t, step (heldState [.drive 0 (PortIn.quiet true)]) = .next t ∧
      (heldState [.drive 0 (PortIn.quiet true)]).routers[0]? = some held ∧
      t.routers[0]? = some held.assertReset ∧ held.en = true ∧ held.assertReset.en = false :=
  ⟨_, rfl, rfl, rfl, rfl, rfl⟩
theorem witness_OtherInstancesAreUntouched :
    ∃ t, { heldState [present 40] with routers := [held, Router.entry secondConfig] }.script[0]? = some (present 40) ∧
      step { heldState [present 40] with routers := [held, Router.entry secondConfig] } = .next t ∧ 1 ≠ 0 :=
  ⟨_, rfl, rfl, by decide⟩
theorem witness_LastAcceptedCommandDecides :
    (one (unit .inReset 0 0 false) []).configOk = true ∧
    (one (unit .inReset 0 0 false) []).routers[0]? = some (unit .inReset 0 0 false) ∧
    (unit .inReset 0 0 false).phase = .inReset ∧ (PortIn.command false 40).rst = false ∧
    (∀ p ∈ [PortIn.command false 40, PortIn.command false 0xFFE2, PortIn.quiet true, PortIn.quiet false], p.cmdDuty < 2 ^ 16) :=
  ⟨rfl, rfl, rfl, rfl, by decide⟩
theorem witness_CleanPeriodIsHighForItsShare : 0 ≤ 100 ∧ 100 ≤ 100 := by decide
/-- Clean at both ends of the range. -/
theorem witness_HighTimeIsTheShareOfThePeriod :
    ((held.channel .b).applied.toNat ≤ 100 ∧ (held.channel .b).disturbed = false) ∧
    (((unit .active 100 0 true).endPeriod.channel .a).applied.toNat = 100 ∧
      ((unit .active 100 0 true).endPeriod.channel .a).disturbed = false) := by decide

/-- `held` with both channels applying what it drives. -/
def settledUnit : Router := held.endPeriod

theorem settledUnit_inv : settledUnit.Inv :=
  ⟨held_inv.rangeA, held_inv.rangeB, held_inv.exclusive, held_inv.enabled, held_inv.inReset⟩

/-- An instance whose channels still apply `Commit(0, 30)` in a clean period, while `Commit(40, 0)` waits for its end. -/
def pendingUnit : Router :=
  { unit .active 40 0 true with
    log := [.cmd (-30), .commit 0 30, .cmd 40, .commit 40 0]
    chanA := { applied := 0, disturbed := false }, chanB := { applied := 30, disturbed := false } }

/-- The driven commit, a pending one, and the platform of R55. -/
theorem witness_SettledPinsAreExclusive :
    (settledUnit.chanA.disturbed = false ∧ settledUnit.chanB.disturbed = false ∧ settledUnit.Inv ∧
      settledUnit.phase ≠ .powerUp ∧ settledUnit.settled) ∧
    (pendingUnit.chanA.disturbed = false ∧ pendingUnit.chanB.disturbed = false ∧ logWhole pendingUnit.log ∧
      (pendingUnit.chanA.applied, pendingUnit.chanB.applied) ∈ pendingUnit.commitHistory) ∧
    (pendingUnit.PinsApart ∧ pendingUnit.cfg.updateA = pendingUnit.cfg.updateB) :=
  ⟨⟨rfl, rfl, settledUnit_inv, by decide, rfl, rfl⟩,
    ⟨rfl, rfl, ⟨by decide, by decide, trivial⟩, by decide⟩,
    ⟨by constructor <;> decide, by decide, fun _ => .inl rfl⟩, rfl⟩
/-- The pending instance is what `SET_DUTY 40` makes of `settledUnit` once `SET_DUTY -30` is in its log. -/
theorem test_channel_pending_commit :
    ({ settledUnit with log := [.cmd (-30), .commit 0 30] }.transfer 40).chanB = pendingUnit.chanB ∧
    ({ settledUnit with log := [.cmd (-30), .commit 0 30] }.transfer 40).log = pendingUnit.log := by decide
theorem witness_PeriodEndSettlesItsInstances :
    ((heldState [.periodBoundary 0]).configOk = true ∧
      (heldState [.periodBoundary 0]).script[0]? = some (.periodBoundary 0) ∧ held.cfg.timer = 0) ∧
    ((heldState [.periodBoundary 1]).script[0]? = some (.periodBoundary 1) ∧ held.cfg.timer ≠ 1) :=
  ⟨⟨rfl, rfl, rfl⟩, rfl, by decide⟩
theorem witness_EqualUpdateKeepsPinsApart :
    ∃ t, (∀ r ∈ (heldState [present 40]).routers, r.PinsApart) ∧ step (heldState [present 40]) = .next t := by
  refine ⟨_, ?_, rfl⟩
  intro r hr
  obtain rfl : r = held := by simpa [heldState, one] using hr
  exact ⟨held_inv, by decide, fun _ => .inl rfl⟩

/-- `settledUnit` on the platform of R80. -/
def hazardUnit : Router := { settledUnit with cfg := { referenceConfig with updateA := .immediate } }

theorem witness_UnequalUpdateAdmitsOverlap :
    (one hazardUnit []).Ready hazardUnit 40 ∧ (0 : Int) < 40 ∧ (40 : Int) ≤ 100 ∧
    hazardUnit.cfg.updateA = .immediate ∧ hazardUnit.cfg.updateB = .periodBoundary ∧ hazardUnit.dutyB ≠ 0 ∧
    hazardUnit.chanB.applied = hazardUnit.dutyB :=
  ⟨⟨⟨rfl, rfl⟩, rfl, by decide⟩, by decide, by decide, rfl, rfl, by decide, rfl⟩

end Sys2Proof.Tests
end

section
/-! PROOFS. The family 00_scope: what an accepted command's result depends on (R2), what is refused about a
configuration (R5, R68), and that no step writes one (R6). -/

namespace Sys2Proof.Machine

/-! ### Accepted commands (R2) -/

/-- A command outside the reject band is routed to two widths. -/
theorem route_of_not_reject {d : Int} (h : ¬ Reject d) : ∃ a b, route d = some (a, b) := by
  cases hr : route d with
  | none => exact absurd (route_none.1 hr) h
  | some ab => exact ⟨ab.1, ab.2, rfl⟩

/-- After an accepted transfer the registers are the routed widths, whatever they were. -/
theorem transfer_widths {d : Int} {a b : Duty} (h : route d = some (a, b)) (r : Router) :
    (r.transfer d).dutyA = a ∧ (r.transfer d).dutyB = b := by
  rw [transfer_accept h]
  exact ⟨rfl, rfl⟩

/-- Settles O17: both systems run one transfer, and the widths it leaves are those of `route d`. -/
theorem acceptedWidthsForgetTheState : Obligations.AcceptedWidthsForgetTheState := by
  intro s₁ s₂ r₁ r₂ d h₁ h₂ hd
  obtain ⟨a, b, hab⟩ := route_of_not_reject hd
  obtain ⟨hA₁, hB₁⟩ := transfer_widths hab r₁
  obtain ⟨hA₂, hB₂⟩ := transfer_widths hab r₂
  exact ⟨_, _, exec_ready h₁, exec_ready h₂, hA₁.trans hA₂.symm, hB₁.trans hB₂.symm⟩

/-! ### Ill-formed configurations are refused (R5, R68) -/

section IllFormed

variable {s : State} (h : s.configOk = false)
include h

theorem onCurrent_illFormed (f : Router → Except Refusal Router) : s.onCurrent f = .refused .illFormedConfig := by
  simp [State.onCurrent, h]

theorem guarded_illFormed (a : Answer) : s.guarded a = .refused .illFormedConfig := by
  simp [State.guarded, h]

theorem exec_illFormed (i : Instr) : exec i s = .refused .illFormedConfig := by
  cases i with
  | setDuty d => exact onCurrent_illFormed h _

theorem presentWord_illFormed (w : Nat) : presentWord w s = .refused .illFormedConfig := by
  unfold presentWord
  split
  · exact exec_illFormed h _
  · exact onCurrent_illFormed h _

theorem drivePort_illFormed (p : PortIn) : drivePort p s = .refused .illFormedConfig := by
  unfold drivePort
  split
  · exact onCurrent_illFormed h _
  · split
    · exact presentWord_illFormed h _
    · exact onCurrent_illFormed h _

theorem hostAct_illFormed (a : HostAction) : hostAct a s = .refused .illFormedConfig := by
  cases a with
  | drive inst p => exact drivePort_illFormed (s := s.select inst) h p
  | periodBoundary | configChange | foreignWrite => exact guarded_illFormed h _

theorem step_illFormed : step s = .refused .illFormedConfig := by
  unfold step stepHost
  split
  · exact hostAct_illFormed h _
  · exact guarded_illFormed h _

end IllFormed

/-- Settles O40: the configuration is checked before the action or the instruction is looked at. -/
theorem illFormedConfigurationIsRefused : Obligations.IllFormedConfigurationIsRefused :=
  fun _ h => ⟨step_illFormed h, exec_illFormed h⟩

/-! ### Shared channels (R5) -/

theorem wellFormed_channels {c : Config} (h : c.wellFormed = true) : c.chA ≠ c.chB := by
  simp only [Config.wellFormed, Bool.and_eq_true, decide_eq_true_eq] at h
  tauto

theorem compatible_comm (c c' : Config) : c.compatible c' = c'.compatible c := by
  simp only [Config.compatible, ne_comm (a := c.enRes), ne_comm (a := c.timer), eq_comm (a := c.pwmFreq),
    ne_comm (a := c.chA), ne_comm (a := c.chB), Bool.and_right_comm]

/-- Compatible instances on one timer have one frequency (R58) and no channel in common (R5). -/
theorem compatible_sameTimer {c c' : Config} (h : c.compatible c' = true) (ht : c.timer = c'.timer) :
    c.pwmFreq = c'.pwmFreq ∧ c.chA ≠ c'.chA ∧ c.chA ≠ c'.chB ∧ c.chB ≠ c'.chA ∧ c.chB ≠ c'.chB := by
  simp only [Config.compatible, Bool.and_eq_true, Bool.or_eq_true, decide_eq_true_eq] at h
  tauto

theorem configOk_wellFormed {s : State} {k : Nat} {r : Router} (hc : s.configOk = true)
    (hr : s.routers[k]? = some r) : r.cfg.wellFormed = true :=
  configsWellFormed_all hc _ (List.mem_map_of_mem (List.mem_of_getElem? hr))

/-- Two instances of a well-formed system on one timer have one frequency (R58) and no channel in common (R5). -/
theorem configOk_sameTimer {s : State} {j k : Nat} {r r' : Router} (hc : s.configOk = true)
    (hj : s.routers[j]? = some r) (hk : s.routers[k]? = some r') (hjk : j ≠ k)
    (ht : r.cfg.timer = r'.cfg.timer) :
    r.cfg.pwmFreq = r'.cfg.pwmFreq ∧ r.cfg.chA ≠ r'.cfg.chA ∧ r.cfg.chA ≠ r'.cfg.chB ∧
      r.cfg.chB ≠ r'.cfg.chA ∧ r.cfg.chB ≠ r'.cfg.chB := by
  have hcomp := configOk_compatible hc hj hk hjk
  rw [compatible_comm r'.cfg, or_self] at hcomp
  exact compatible_sameTimer hcomp ht

/-- Settles O41: a well-formed system has distinct channels in each router and across the routers of a timer. -/
theorem sharedChannelIsIllFormed : Obligations.SharedChannelIsIllFormed := by
  intro s j k r r' hj hk
  simp only [← Bool.not_eq_true]
  refine ⟨fun heq hc => ?_, fun hjk ht hshared hc => ?_⟩
  · exact wellFormed_channels (configOk_wellFormed hc hj) heq
  · obtain ⟨-, hAA, hAB, hBA, hBB⟩ := configOk_sameTimer hc hj hk hjk ht
    tauto

/-! ### No step writes a configuration (R6) -/

/-- Whatever a step does to a router, the router keeps its configuration. -/
theorem step_instance_cfg {s t : State} (h : step s = .next t) {k : Nat} {r : Router}
    (hr : s.routers[k]? = some r) : ∃ r', t.routers[k]? = some r' ∧ r'.cfg = r.cfg := by
  obtain ⟨r', hr', rfl | ⟨p, -, hm⟩ | rfl⟩ := step_instance h hr
  · exact ⟨_, hr', rfl⟩
  · exact ⟨_, hr', moves_cfg hm⟩
  · exact ⟨_, hr', rfl⟩

/-- Settles O48: a step keeps how many instances there are, and the configuration at each position. -/
theorem configurationNeverChanges : Obligations.ConfigurationNeverChanges := by
  intro s t h
  refine List.ext_getElem (by simp [step_length h]) fun k ht hs => ?_
  rw [List.length_map] at ht hs
  obtain ⟨r', hr', hcfg⟩ := step_instance_cfg h (List.getElem?_eq_getElem hs)
  obtain rfl : t.routers[k] = r' := Option.some.inj ((List.getElem?_eq_getElem ht).symm.trans hr')
  simpa using hcfg

end Sys2Proof.Machine
end

section
/-! PROOFS. The family 10_state: what one step of the host does (R17, R21), when a command is taken and what the ports
then show (R9, R14, R65, R66), and the invariants of every router (R19, R20). -/

namespace Sys2Proof.Machine

/-! ### The host's next action (R17, R21) -/

theorem step_of_action {s : State} {a : HostAction} (h : s.script[s.pos]? = some a) : step s = hostAct a s := by
  simp [step, stepHost, h]

theorem guarded_ok {s : State} (h : s.configOk = true) (a : Answer) : s.guarded a = a := if_pos h

theorem presentWord_of_decode {s : State} {r : Router} {n : Nat} {i : Instr} (hr : s.current = some r)
    (hi : decode r.cfg.cmdW n = .ok i) : presentWord n s = exec i s := by
  simp [presentWord, portWidth_at hr, hi]

/-- Settles O24: a drive action is `drivePort` at the selected router, whose port's width the decoder reads. -/
theorem stepRunsTheDecodedInstruction : Obligations.StepRunsTheDecodedInstruction := by
  intro s inst p h
  refine ⟨step_of_action h, fun r i hp hv hr hi => ?_⟩
  calc step s = drivePort p (s.select inst) := step_of_action h
    _ = presentWord p.cmdDuty (s.select inst) := by simp [drivePort, hp, hv]
    _ = exec i (s.select inst) := presentWord_of_decode hr hi

/-- Settles O38: past the check of the configuration both actions answer their own refusal. -/
theorem foreignActionsAreRefused : Obligations.ForeignActionsAreRefused := fun _ _ _ _ _ hc =>
  ⟨fun h => (step_of_action h).trans (guarded_ok hc _), fun h => (step_of_action h).trans (guarded_ok hc _)⟩

/-- Whatever the port inputs are, `drivePort` is some operation on the current router. -/
theorem drivePort_eq_onCurrent (p : PortIn) (s : State) : ∃ f, drivePort p s = s.onCurrent f := by
  unfold drivePort
  split
  · exact ⟨_, rfl⟩
  · split
    · unfold presentWord
      split
      · rename_i i _
        cases i with
        | setDuty d => exact ⟨Router.present d, rfl⟩
      · exact ⟨_, rfl⟩
    · exact ⟨_, rfl⟩

theorem onCurrent_missing {s : State} (hc : s.configOk = true) (hr : s.current = none)
    (f : Router → Except Refusal Router) : s.onCurrent f = .refused .noSuchInstance := by
  simp [State.onCurrent, hc, hr]

/-- Settles O39: no operation on a missing router has an answer but `noSuchInstance`. -/
theorem missingInstanceIsRefused : Obligations.MissingInstanceIsRefused := by
  intro s inst p hc hr h
  obtain ⟨f, hf⟩ := drivePort_eq_onCurrent p (s.select inst)
  calc step s = drivePort p (s.select inst) := step_of_action h
    _ = (s.select inst).onCurrent f := hf
    _ = .refused .noSuchInstance := onCurrent_missing (s := s.select inst) hc hr f

/-! ### The release, whatever the command inputs (R14, R75) -/

theorem quiet_inReset {r : Router} (h : r.phase = .inReset) : r.quiet = r.releaseReset := by
  simp [Router.quiet, h]

theorem quiet_active {r : Router} (h : r.phase = .active) : r.quiet = { r with beat := none } := by
  simp [Router.quiet, h]

theorem present_inReset {d : Int} {r : Router} (hf : fits r.cfg.cmdW d = true) (hi : r.phase = .inReset) :
    r.present d = .ok r.releaseReset := by simp [Router.present, hf, hi]

/-- In IN_RESET a step with `rst = 0` is the release, with a word on the port or with none. -/
theorem drivePort_release {s : State} {r : Router} {p : PortIn} (h : s.At r) (hi : r.phase = .inReset)
    (hp : p.rst = false) (hn : p.cmdValid = true → p.cmdDuty < 2 ^ r.cfg.cmdW) :
    drivePort p s = .next (s.steppedTo r.releaseReset) := by
  cases hv : p.cmdValid with
  | false => rw [drivePort_quiet h hp hv, quiet_inReset hi]
  | true =>
    rw [drivePort_command h hp hv (hn hv)]
    exact onCurrent_ok h (present_inReset (fits_operandOf _) hi)

/-- A step of an existing router runs, unless it presents a command in POWERUP or a number that is no word of the
port (R21, R39, R76). -/
theorem drivePort_runs {s : State} {r : Router} {p : PortIn} (h : s.At r)
    (ha : p.rst = false → p.cmdValid = true → r.phase ≠ .powerUp ∧ p.cmdDuty < 2 ^ r.cfg.cmdW) :
    ∃ t, drivePort p s = .next t := by
  cases hp : p.rst with
  | true => exact ⟨_, drivePort_reset h hp⟩
  | false =>
    cases hv : p.cmdValid with
    | false => exact ⟨_, drivePort_quiet h hp hv⟩
    | true =>
      obtain ⟨hne, hn⟩ := ha hp hv
      cases hph : r.phase with
      | powerUp => exact absurd hph hne
      | inReset => exact ⟨_, drivePort_release h hph hp fun _ => hn⟩
      | active => exact ⟨_, drivePort_transfer h hph hp hv hn⟩

/-- Settles O36: a drive action runs by `drivePort_runs`, and a period's end always does. -/
theorem allowedActionsHaveSteps : Obligations.AllowedActionsHaveSteps := by
  intro s a hc h hallowed
  rw [step_of_action h]
  cases a with
  | drive inst p =>
    obtain ⟨r, hr, ha⟩ := hallowed
    exact drivePort_runs (at_select hc hr) ha
  | periodBoundary tm => exact ⟨_, guarded_ok hc _⟩
  | configChange | foreignWrite => exact hallowed.elim

/-! ### `cmd_ready`, and the ports of a step (R9, R14, R34) -/

@[simp] theorem cmdReady_rst (inst : Nat) (r : Router) : r.cmdReady inst true = false := rfl

theorem cmdReady_active {r : Router} (h : r.phase = .active) (inst : Nat) : r.cmdReady inst false = true := by
  simp [Router.cmdReady, h]

theorem cmdReady_inReset {r : Router} (h : r.phase = .inReset) (inst : Nat) : r.cmdReady inst false = false := by
  simp [Router.cmdReady, h]

/-- Settles O32, by the reset line and then the phase. -/
theorem commandReadyByPhase : Obligations.CommandReadyByPhase := fun r inst =>
  ⟨cmdReady_rst inst r, fun h => cmdReady_active h inst, fun h => cmdReady_inReset h inst⟩

/-- A transfer appends `CMD(d)` first, whatever the band (R41). -/
theorem transfer_log_cmd (d : Int) (r : Router) : ∃ es, (r.transfer d).log = r.log ++ .cmd d :: es := by
  cases h : route d with
  | some ab => exact ⟨_, by rw [transfer_accept (a := ab.1) (b := ab.2) h]⟩
  | none => exact ⟨_, by rw [transfer_reject (route_none.1 h)]⟩

/-- The beat of a transfer, whatever the band (R34). -/
theorem transfer_beat (d : Int) (r : Router) :
    (r.transfer d).beat = some { value := diagWord r.cfg.cmdW d, oor := outOfRange d } := by
  unfold Router.transfer
  split <;> rfl

/-- Settles O33: the step is the transfer of the word. -/
theorem activeInstanceTakesEveryWord : Obligations.ActiveInstanceTakesEveryWord := by
  intro s r p h ha hp hv hn
  obtain ⟨-, hphase, hen⟩ := transfer_keeps (operandOf (BitVec.ofNat r.cfg.cmdW p.cmdDuty)) r
  exact ⟨_, drivePort_transfer h ha hp hv hn, hphase.trans ha, hen, transfer_log_cmd _ r⟩

/-- Settles O34: the step is the transfer of the word, and its beat carries that word back. -/
theorem portsShowTheTransfer : Obligations.PortsShowTheTransfer := by
  intro s r p inst h ha hp hv hn
  refine ⟨_, drivePort_transfer h ha hp hv hn, ?_⟩
  simp [portOut, hp, cmdReady_active ha, transfer_beat, diagWord_operandOf hn]

theorem portOut_diagValid_of_no_beat {r' : Router} (h : r'.beat = none) (inst : Nat) (p : PortIn) (r : Router) :
    (portOut inst p r r').diagValid = false := by
  simp [portOut, h]

/-- Settles O35: reset, release and the idle step of ACTIVE each leave no beat. -/
theorem noTransferNoBeat : Obligations.NoTransferNoBeat := by
  intro s r p h hn hcase
  cases hp : p.rst with
  | true => exact ⟨_, drivePort_reset h hp, fun inst => portOut_diagValid_of_no_beat rfl inst p r⟩
  | false =>
    rcases hcase with hrst | hi | ⟨ha, hv⟩
    · simp [hp] at hrst
    · exact ⟨_, drivePort_release h hi hp fun _ => hn, fun inst => portOut_diagValid_of_no_beat rfl inst p r⟩
    · exact ⟨_, drivePort_quiet h hp hv,
        fun inst => portOut_diagValid_of_no_beat (by rw [quiet_active ha]) inst p r⟩

/-! ### The invariants of a router (R19, R20, R50) -/

theorem Router.Inv.of_powerUp {r : Router} (h : r.phase = .powerUp) : r.Inv := by
  constructor <;> simp [h]

/-- An ACTIVE router meets the invariants if its widths are in range and exclusive and its enable line is up. -/
theorem Router.Inv.of_active {r : Router} (hp : r.phase = .active) (hA : r.dutyA.toNat ≤ 100)
    (hB : r.dutyB.toNat ≤ 99) (hx : r.dutyA = 0 ∨ r.dutyB = 0) (hen : r.en = true) : r.Inv :=
  ⟨fun _ => hA, fun _ => hB, fun _ => hx, fun _ => hen, fun hi => by simp [hp] at hi⟩

/-- The invariants speak of the phase, the widths and the enable line only. -/
theorem Router.Inv.congr {r r' : Router} (h : r.Inv) (hp : r'.phase = r.phase) (hA : r'.dutyA = r.dutyA)
    (hB : r'.dutyB = r.dutyB) (hen : r'.en = r.en) : r'.Inv := by
  obtain ⟨rangeA, rangeB, exclusive, enabled, inReset⟩ := h
  constructor <;> rw [hp] <;> simpa only [hA, hB, hen]

theorem entry_inv (cfg : Config) : (Router.entry cfg).Inv :=
  .of_active rfl (Nat.zero_le _) (Nat.zero_le _) (.inl rfl) rfl

theorem assertReset_inv (r : Router) : r.assertReset.Inv := by
  constructor <;> simp

theorem releaseReset_inv (r : Router) : r.releaseReset.Inv :=
  .of_active rfl (Nat.zero_le _) (Nat.zero_le _) (.inl rfl) rfl

/-- The widths of a routed command are in range (R42, R43). -/
theorem route_range {d : Int} {a b : Duty} (h : route d = some (a, b)) : a.toNat ≤ 100 ∧ b.toNat ≤ 99 := by
  obtain ⟨⟨-, hd⟩, ha, rfl⟩ | ⟨⟨hd, -⟩, rfl, hb⟩ := route_some h
  · exact ⟨by omega, by simp⟩
  · exact ⟨by simp, by omega⟩

/-- An accepted transfer loads widths in range of which one is 0, and a rejected one keeps those there were. -/
theorem Router.Inv.transfer {r : Router} (h : r.Inv) (ha : r.phase = .active) (d : Int) : (r.transfer d).Inv := by
  cases hr : route d with
  | some ab =>
    obtain ⟨hA, hB⟩ := route_range (a := ab.1) (b := ab.2) hr
    rw [transfer_accept (a := ab.1) (b := ab.2) hr]
    exact .of_active ha hA hB (route_exclusive hr) (h.enabled ha)
  | none =>
    rw [transfer_reject (route_none.1 hr)]
    exact h.congr rfl rfl rfl rfl

/-- Every move of a router keeps its invariants. -/
theorem Router.Inv.moves {p : PortIn} {r r' : Router} (h : r.Inv) (hm : Router.Moves p r r') : r'.Inv := by
  cases hm with
  | assertReset => exact assertReset_inv r
  | releaseReset => exact releaseReset_inv r
  | idlePowerUp => exact h
  | idleActive => exact h.congr rfl rfl rfl rfl
  | transfer _ _ ha _ => exact h.transfer ha _

/-- Settles O44: every move keeps the invariants, and a period's end writes nothing they speak of. -/
theorem stepKeepsTheInvariant : Obligations.StepKeepsTheInvariant := fun _ _ hs h =>
  step_keeps (fun _ _ _ hr hm => hr.moves hm) (fun _ hr => hr.congr rfl rfl rfl rfl) hs h

/-! ### The state after reset, and at power-on (R20) -/

theorem mem_reset_routers {r : Router} : r ∈ State.reset.routers ↔ r = Router.entry referenceConfig :=
  List.mem_singleton

/-- At power-on every router is in POWERUP. -/
theorem phase_of_mem_powerUp {cfgs : List Config} {script : List HostAction} {r : Router}
    (h : r ∈ (State.powerUp cfgs script).routers) : r.phase = .powerUp := by
  obtain ⟨_, _, rfl⟩ := List.mem_mapIdx.1 h
  rfl

/-- Settles O42: the one router is `Router.entry`, read field by field. -/
theorem resetStateHasTheEntryValues : Obligations.ResetStateHasTheEntryValues :=
  ⟨rfl, rfl, Router.entry referenceConfig, rfl, rfl, rfl, rfl, rfl, rfl, rfl, rfl, rfl, cmdReady_active rfl⟩

/-- Settles O43: the entry values meet the invariants, which do not constrain POWERUP. -/
theorem invariantHoldsAtResetAndPowerUp : Obligations.InvariantHoldsAtResetAndPowerUp :=
  ⟨fun _ hr => mem_reset_routers.1 hr ▸ entry_inv _, fun _ _ _ hr => .of_powerUp (phase_of_mem_powerUp hr)⟩

/-- Settles O58: after reset both channels apply 0. -/
theorem pinsStartApart : Obligations.PinsStartApart := by
  intro r hr
  obtain rfl := mem_reset_routers.1 hr
  exact ⟨entry_inv _, by simp [Router.entry], fun _ => .inl rfl⟩

end Sys2Proof.Machine
end

section
/-! PROOFS. The family 20_memory: the words of a byte-serial host link in either byte order (R24). -/

namespace Sys2Proof.Machine

theorem linkWord_highFirst (bytes : List Byte) : linkWord .highFirst bytes = linkWord .lowFirst bytes.reverse := rfl

theorem linkWord_lowFirst_pair (lo hi : Byte) : linkWord .lowFirst [lo, hi] = lo.toNat + 256 * hi.toNat := by
  simp [linkWord, bytesValue]

/-- A link that delivers as many bytes as the word has is read as the word they assemble to. -/
theorem decodeLink_of_length {W : Nat} {bytes : List Byte} (h : bytes.length = linkBytes W) (order : LinkOrder) :
    decodeLink order W bytes = decode W (linkWord order bytes) := if_pos h

theorem decodeLink_highFirst (W : Nat) (bytes : List Byte) :
    decodeLink .highFirst W bytes = decodeLink .lowFirst W bytes.reverse := by
  simp only [decodeLink, linkWord_highFirst, List.length_reverse]

/-- Settles O6: reversing the bytes keeps their number, and two bytes are as many as a 16-bit word has. -/
theorem linkOrderReversesTheBytes : Obligations.LinkOrderReversesTheBytes := by
  refine ⟨decodeLink_highFirst, fun lo hi => ?_⟩
  have hlen : [lo, hi].length = linkBytes 16 := rfl
  rw [decodeLink_of_length hlen, linkWord_lowFirst_pair]

end Sys2Proof.Machine
end

section
/-! PROOFS. The family 30_encoding: the word of an instruction and back (R32, R33, R35, R39), the value classes (R36),
what the assembler makes of an operand (R38, R39), and the beat that carries the word (R34). -/

namespace Sys2Proof.Machine

/-! ### Words and instructions (R32, R33, R39) -/

/-- The decoder of the port reads a word as its operand. -/
theorem decode_toNat {W : Nat} (w : BitVec W) : decode W w.toNat = .ok (.setDuty (operandOf w)) := by
  rw [decode_eq_ok w.isLt, BitVec.ofNat_toNat, BitVec.setWidth_eq]

theorem encode_of_fits {W : Nat} {d : Int} (h : fits W d = true) :
    encode W (.setDuty d) = some (BitVec.ofInt W d) := if_pos h

theorem encode_operandOf {W : Nat} (w : BitVec W) : encode W (.setDuty (operandOf w)) = some w := by
  rw [encode_of_fits (fits_operandOf w), operandOf, BitVec.ofInt_toInt]

/-- Settles O1: the word is `enc_W` of the operand, whose sign extension gives the operand back. -/
theorem decodeOfEncodeIsTheInstruction : Obligations.DecodeOfEncodeIsTheInstruction := by
  intro W i hW hi
  cases i with
  | setDuty d =>
    have hd : fits W d = true := hi
    refine ⟨BitVec.ofInt W d, encode_of_fits hd, ?_⟩
    rw [decode_toNat, operandOf_ofInt (by omega) hd]

/-- Settles O2: the instruction is `SET_DUTY` of the word's own operand. -/
theorem encodeOfDecodeIsTheWord : Obligations.EncodeOfDecodeIsTheWord := fun _ w _ =>
  ⟨.setDuty (operandOf w), decode_toNat w, fits_operandOf w, encode_operandOf w⟩

/-! ### The value classes (R35, R36) -/

theorem classOf_eq_fwd {d : Int} : classOf d = .fwd ↔ Forward d := by
  unfold classOf; split_ifs <;> simp <;> omega

theorem classOf_eq_rejAbove {d : Int} : classOf d = .rejAbove ↔ 100 < d := by
  unfold classOf; split_ifs <;> simp <;> omega

theorem classOf_eq_rejBelow {d : Int} : classOf d = .rejBelow ↔ d ≤ -100 := by
  unfold classOf; split_ifs <;> simp <;> omega

theorem classOf_eq_rev {d : Int} : classOf d = .rev ↔ Reverse d := by
  unfold classOf; split_ifs <;> simp <;> omega

section WordRanges

variable {W n : Nat} (hW : 8 ≤ W) (hn : n < 2 ^ W)
include hW hn

/-- A word below the sign bit is its own operand, and one from the sign bit on is `2^W` above it. From 8 bits on, the
sign bit lies above the forward band. -/
theorem operandOf_halves : 128 ≤ 2 ^ (W - 1) ∧ 2 ^ W = 2 * 2 ^ (W - 1) ∧
    (n < 2 ^ (W - 1) ∧ operandOf (BitVec.ofNat W n) = n ∨
      2 ^ (W - 1) ≤ n ∧ operandOf (BitVec.ofNat W n) = (n : Int) - (2 ^ W : Nat)) := by
  have hP : 2 ^ 7 ≤ 2 ^ (W - 1) := Nat.pow_le_pow_right (by omega) (by omega)
  have h2 : 2 ^ W = 2 * 2 ^ (W - 1) := by rw [mul_comm, Nat.two_pow_pred_mul_two (by omega)]
  refine ⟨hP, h2, ?_⟩
  rw [operandOf_eq hn]
  split_ifs with h
  · exact .inl ⟨by omega, rfl⟩
  · exact .inr ⟨by omega, rfl⟩

theorem forward_operandOf : Forward (operandOf (BitVec.ofNat W n)) ↔ n ≤ 100 := by
  obtain ⟨hP, h2, ⟨hlo, hd⟩ | ⟨hhi, hd⟩⟩ := operandOf_halves hW hn <;> rw [hd] <;> omega

theorem above_operandOf : 100 < operandOf (BitVec.ofNat W n) ↔ 101 ≤ n ∧ n ≤ 2 ^ (W - 1) - 1 := by
  obtain ⟨hP, h2, ⟨hlo, hd⟩ | ⟨hhi, hd⟩⟩ := operandOf_halves hW hn <;> rw [hd] <;> omega

theorem below_operandOf : operandOf (BitVec.ofNat W n) ≤ -100 ↔ 2 ^ (W - 1) ≤ n ∧ n ≤ 2 ^ W - 100 := by
  obtain ⟨hP, h2, ⟨hlo, hd⟩ | ⟨hhi, hd⟩⟩ := operandOf_halves hW hn <;> rw [hd] <;> omega

theorem reverse_operandOf : Reverse (operandOf (BitVec.ofNat W n)) ↔ 2 ^ W - 99 ≤ n := by
  obtain ⟨hP, h2, ⟨hlo, hd⟩ | ⟨hhi, hd⟩⟩ := operandOf_halves hW hn <;> rw [hd] <;> omega

/-- The two columns of R35 name the same class. -/
theorem classOf_operandOf : classOf (operandOf (BitVec.ofNat W n)) = classOfWord W n := by
  unfold classOfWord
  split_ifs with hfwd habove hbelow
  · exact classOf_eq_fwd.2 ((forward_operandOf hW hn).2 hfwd)
  · exact classOf_eq_rejAbove.2 ((above_operandOf hW hn).2 ⟨by omega, habove⟩)
  · exact classOf_eq_rejBelow.2 ((below_operandOf hW hn).2 ⟨by omega, hbelow⟩)
  · exact classOf_eq_rev.2 ((reverse_operandOf hW hn).2 (by omega))

end WordRanges

/-- Settles O4: the bands of the word's operand, one word range at a time. -/
theorem everyWordHasItsValueClass : Obligations.EveryWordHasItsValueClass := fun _ _ hW hn =>
  ⟨_, decode_eq_ok hn, forward_operandOf hW hn, above_operandOf hW hn, below_operandOf hW hn,
    reverse_operandOf hW hn, classOf_operandOf hW hn, classOf_eq_fwd, classOf_eq_rejAbove, classOf_eq_rejBelow,
    classOf_eq_rev⟩

/-- Settles O5: sixteen closed words, evaluated. -/
theorem boundaryWordsDecode : Obligations.BoundaryWordsDecode := by
  constructor
  · decide
  · decide

/-! ### The assembler (R38, R39) -/

theorem assemble_of_fits {W : Nat} {v : Int} (h : fits W v = true) (rst : Bool) :
    assemble W rst (.setDuty v) = .ok ([PortIn.command rst (BitVec.ofInt W v).toNat], rst) := by
  simp [assemble, encodeOperand, h]

theorem assemble_of_not_fits {W : Nat} {v : Int} (h : ¬ fits W v = true) (rst : Bool) :
    assemble W rst (.setDuty v) = .error .operandOutOfRange := by
  simp [assemble, encodeOperand, h]

/-- `enc_W` is the residue modulo `2^W` (R7). -/
theorem toNat_ofInt_eq_emod (W : Nat) (v : Int) : ((BitVec.ofInt W v).toNat : Int) = v % ((2 ^ W : Nat) : Int) := by
  have hpos : (0 : Int) < (2 ^ W : Nat) := by exact_mod_cast Nat.two_pow_pos W
  rw [BitVec.toNat_ofInt, Int.toNat_of_nonneg (Int.emod_nonneg v hpos.ne')]

/-- Settles O3: the range stated is that of `fits`. -/
theorem operandIsEncodedOrRefused : Obligations.OperandIsEncodedOrRefused := by
  intro W rst v _
  rw [← fits_iff]
  exact ⟨fun h => ⟨_, toNat_ofInt_eq_emod W v, assemble_of_fits h rst⟩, fun h => assemble_of_not_fits h rst⟩

/-- The command of the word of a fitting duty runs `SET_DUTY` of that duty. -/
theorem drivePort_encoded {s : State} {r : Router} {v : Int} (h : s.At r) (hv : fits r.cfg.cmdW v = true) :
    drivePort (PortIn.command false (BitVec.ofInt r.cfg.cmdW v).toNat) s = exec (.setDuty v) s := by
  have hW := h.cmdW_ge
  rw [drivePort_command h rfl rfl (BitVec.isLt _)]
  simp only [PortIn.command, BitVec.ofNat_toNat, BitVec.setWidth_eq, operandOf_ofInt (by omega) hv]

/-- Settles O31: an operand that assembles fits, so its one step is the command of its word. -/
theorem assembledCommandRuns : Obligations.AssembledCommandRuns := by
  intro s r v ps h hps
  by_cases hv : fits r.cfg.cmdW v = true
  · rw [assemble_of_fits hv] at hps
    cases hps
    exact ⟨_, rfl, drivePort_encoded h hv⟩
  · rw [assemble_of_not_fits hv] at hps
    cases hps

/-- Settles O60: the digits' base 16 value is the word presented, where it is one. -/
theorem hexadecimalWordIsTheRawWord : Obligations.HexadecimalWordIsTheRawWord := by
  intro s r ds n h hn
  rw [← hexValue_eq] at hn
  subst hn
  refine ⟨fun hds => ⟨_, if_pos hds, rfl, ?_⟩, fun hds => if_neg hds⟩
  exact drivePort_command h rfl rfl hds.2

/-! ### The operand on the port (R34, R39) -/

theorem present_not_fits {d : Int} {r : Router} (h : fits r.cfg.cmdW d = false) :
    r.present d = .error .operandDoesNotFit := by simp [Router.present, h]

/-- Settles O23: the operand is looked at before the phase. -/
theorem operandTooWideIsRefused : Obligations.OperandTooWideIsRefused := fun _ _ _ h hd =>
  onCurrent_error h (present_not_fits hd)

/-- A transfer's word is read back as the duty transferred. -/
theorem operandOf_diagWord {W : Nat} (hW : 0 < W) {d : Int} (hd : fits W d = true) :
    operandOf (BitVec.ofNat W (diagWord W d)) = d := by
  rw [diagWord, BitVec.ofNat_toNat, BitVec.setWidth_eq, operandOf_ofInt hW hd]

theorem encode_eq_diagWord {W : Nat} {d : Int} (hd : fits W d = true) :
    encode W (.setDuty d) = some (BitVec.ofNat W (diagWord W d)) := by
  rw [encode_of_fits hd, diagWord, BitVec.ofNat_toNat, BitVec.setWidth_eq]

/-- An accepted command is not reported out of range (R62). -/
theorem outOfRange_of_route {d : Int} {ab : Duty × Duty} (h : route d = some ab) : outOfRange d = false := by
  rw [Bool.eq_false_iff, Ne, outOfRange_iff, ← route_none, h]
  simp

/-- What a transfer appends to the diagnostic stream, in which no commit stands (R61, R62). -/
theorem transfer_diagStream (d : Int) (r : Router) :
    (r.transfer d).diagStream = r.diagStream ++ .cmd d :: (if outOfRange d then [.outOfRange] else []) := by
  cases h : route d with
  | some ab =>
    simp [transfer_accept (a := ab.1) (b := ab.2) h, Router.diagStream, outOfRange_of_route h]
  | none =>
    have hd := route_none.1 h
    simp [transfer_reject hd, Router.diagStream, outOfRange_iff.2 hd]

/-- Settles O14: the beat is that of the transfer, and its word is read back as `d`. -/
theorem beatStandsForItsEvents : Obligations.BeatStandsForItsEvents := by
  intro s r d h
  have hW := h.here.cmdW_ge
  refine ⟨_, _, exec_ready h, transfer_beat d r, encode_eq_diagWord h.fit, BitVec.isLt _, outOfRange_iff,
    transfer_diagStream d r, ?_⟩
  rw [transfer_beat, beatEvents, operandOf_diagWord (by omega) h.fit, transfer_diagStream]

end Sys2Proof.Machine
end

section
/-! PROOFS. The family 40_set_duty: what one transfer writes and reports, band by band (R41 to R46, R50, R51), that a
second one changes nothing more (R48), and that the last accepted command decides the widths (R52). -/

namespace Sys2Proof.Machine

/-! ### What a transfer writes and reports (R41, R47) -/

/-- The events of one transfer: `CMD(d)`, then the commit its band gives, or `OUT_OF_RANGE` (R30, R41, R62). -/
def transferEvents (d : Int) : List Event :=
  match route d with
  | some (a, b) => [.cmd d, .commit a b]
  | none => [.cmd d, .outOfRange]

theorem transfer_log (d : Int) (r : Router) : (r.transfer d).log = r.log ++ transferEvents d := by
  cases h : route d with
  | some ab =>
    obtain ⟨a, b⟩ := ab
    simp [transfer_accept h, transferEvents, h]
  | none => simp [transfer_reject (route_none.1 h), transferEvents, h]

/-- A transfer loads the routed widths, and keeps both registers where there are none. -/
theorem transfer_widths_getD (d : Int) (r : Router) :
    ((r.transfer d).dutyA, (r.transfer d).dutyB) = (route d).getD (r.dutyA, r.dutyB) := by
  cases h : route d with
  | some ab =>
    obtain ⟨a, b⟩ := ab
    rw [transfer_accept h, Option.getD_some]
  | none => rw [transfer_reject (route_none.1 h), Option.getD_none]

/-- The forward band is routed to channel A, undiminished by the 7 bits of a width (R42). -/
theorem route_forward_width {d : Int} (h : Forward d) : ∃ a : Duty, route d = some (a, 0) ∧ (a.toNat : Int) = d := by
  obtain ⟨-, ha, -⟩ | ⟨hrev, -⟩ := route_some (route_forward h)
  · exact ⟨_, route_forward h, ha⟩
  · omega

/-- The reverse band is routed to channel B, by its absolute value (R43). -/
theorem route_reverse_width {d : Int} (h : Reverse d) : ∃ b : Duty, route d = some (0, b) ∧ (b.toNat : Int) = -d := by
  obtain ⟨hfwd, -⟩ | ⟨-, -, hb⟩ := route_some (route_reverse h)
  · omega
  · exact ⟨_, route_reverse h, hb⟩

/-- A reject-band transfer commits nothing (R44). -/
theorem commitHistory_transfer_reject {d : Int} (h : Reject d) (r : Router) :
    (r.transfer d).commitHistory = r.commitHistory := by
  simp [transfer_reject h, Router.commitHistory]

/-- Settles O7: a transfer accepted with the forward band's widths. -/
theorem forwardCommandCommits : Obligations.ForwardCommandCommits := by
  intro s r d h hd
  obtain ⟨a, hroute, ha⟩ := route_forward_width hd
  refine ⟨_, exec_ready h, ?_⟩
  rw [transfer_accept hroute]
  exact ⟨ha, rfl, rfl, rfl, rfl, rfl, rfl⟩

/-- Settles O8: a transfer accepted with the reverse band's widths. -/
theorem reverseCommandCommits : Obligations.ReverseCommandCommits := by
  intro s r d h hd
  obtain ⟨b, hroute, hb⟩ := route_reverse_width hd
  obtain ⟨hone, h99⟩ : 1 ≤ b.toNat ∧ b.toNat ≤ 99 := by omega
  refine ⟨_, exec_ready h, ?_⟩
  rw [transfer_accept hroute]
  exact ⟨rfl, hb, hone, h99, rfl, rfl, rfl, rfl, rfl⟩

/-- Settles O9: a rejected transfer writes the log and the beat only. -/
theorem rejectedCommandWritesNothing : Obligations.RejectedCommandWritesNothing := by
  intro s r d h hd
  have hcommits := commitHistory_transfer_reject hd r
  refine ⟨_, exec_ready h, ?_⟩
  rw [transfer_reject hd] at hcommits ⊢
  exact ⟨rfl, rfl, rfl, rfl, rfl, rfl, hcommits, rfl⟩

/-- Settles O11: the second event is the commit of the widths loaded, or the report. -/
theorem commandValueIsReportedFirst : Obligations.CommandValueIsReportedFirst := by
  intro s r d h
  cases hroute : route d with
  | some ab =>
    obtain ⟨a, b⟩ := ab
    exact ⟨_, .commit a b, exec_ready h, by rw [transfer_accept hroute], .inr (by rw [transfer_accept hroute])⟩
  | none => exact ⟨_, .outOfRange, exec_ready h, by rw [transfer_reject (route_none.1 hroute)], .inl rfl⟩

/-- Settles O13, by what a transfer keeps. -/
theorem commandKeepsEnableAndPhase : Obligations.CommandKeepsEnableAndPhase := by
  intro s r d h
  obtain ⟨-, hphase, hen⟩ := transfer_keeps d r
  exact ⟨_, exec_ready h, hen, hphase.trans h.active⟩

/-! ### A second transfer of the same command (R48) -/

/-- After a transfer the same command is ready again. -/
theorem State.Ready.again {s : State} {r : Router} {d : Int} (h : s.Ready r d) :
    (s.steppedTo (r.transfer d)).Ready (r.transfer d) d := by
  obtain ⟨hcfg, hphase, -⟩ := transfer_keeps d r
  exact ⟨h.here.steppedTo hcfg, hphase.trans h.active, hcfg ▸ h.fit⟩

theorem transfer_transfer_widths (d : Int) (r : Router) :
    (((r.transfer d).transfer d).dutyA, ((r.transfer d).transfer d).dutyB) =
      ((r.transfer d).dutyA, (r.transfer d).dutyB) := by
  rw [transfer_widths_getD, transfer_widths_getD]
  cases route d <;> rfl

/-- Settles O15: what a transfer loads and appends depends on the command only. -/
theorem commandIsIdempotent : Obligations.CommandIsIdempotent := by
  intro s r d h
  obtain ⟨-, -, hen⟩ := transfer_keeps d (r.transfer d)
  obtain ⟨hA, hB⟩ := Prod.mk.inj (transfer_transfer_widths d r)
  have hsecond := exec_ready h.again
  rw [steppedTo_steppedTo] at hsecond
  have hne : transferEvents d ≠ [] := by unfold transferEvents; split <;> simp
  exact ⟨_, _, _, exec_ready h, hsecond, hA, hB, hen, hne, transfer_log d r, transfer_log d (r.transfer d)⟩

/-! ### The direction, and the widths that can be reached (R15, R50, R51) -/

theorem dir_of_dutyB_eq_zero {r : Router} (h : r.dutyB = 0) : r.dir = .forward := if_pos h

theorem dir_of_dutyB_ne_zero {r : Router} (h : r.dutyB ≠ 0) : r.dir = .reverse := if_neg h

theorem dir_congr {r r' : Router} (h : r'.dutyB = r.dutyB) : r'.dir = r.dir := by
  rw [Router.dir, h, Router.dir]

theorem transfer_widths_forward {d : Int} (h : Forward d) (r : Router) :
    ((r.transfer d).dutyA.toNat : Int) = d ∧ (r.transfer d).dutyB = 0 := by
  obtain ⟨a, hroute, ha⟩ := route_forward_width h
  obtain ⟨hA, hB⟩ := transfer_widths hroute r
  exact ⟨hA ▸ ha, hB⟩

theorem transfer_widths_reverse {d : Int} (h : Reverse d) (r : Router) :
    (r.transfer d).dutyA = 0 ∧ ((r.transfer d).dutyB.toNat : Int) = -d := by
  obtain ⟨b, hroute, hb⟩ := route_reverse_width h
  obtain ⟨hA, hB⟩ := transfer_widths hroute r
  exact ⟨hA, hB ▸ hb⟩

/-- The reverse band holds no 0, so its width is not 0. -/
theorem transfer_dutyB_ne_zero {d : Int} (h : Reverse d) (r : Router) : (r.transfer d).dutyB ≠ 0 := by
  obtain ⟨-, hB⟩ := transfer_widths_reverse h r
  intro h0
  have hzero : (0 : Duty).toNat = 0 := rfl
  rw [h0, hzero] at hB
  omega

/-- Settles O16, band by band. -/
theorem directionFollowsTheCommand : Obligations.DirectionFollowsTheCommand := by
  intro s r d h
  refine ⟨_, exec_ready h, fun hd => ?_, fun hd => ?_, fun hd => ?_⟩
  · obtain ⟨hA, hB⟩ := transfer_widths_forward hd r
    exact ⟨dir_of_dutyB_eq_zero hB, hA, hB⟩
  · obtain ⟨hA, hB⟩ := transfer_widths_reverse hd r
    exact ⟨dir_of_dutyB_ne_zero (transfer_dutyB_ne_zero hd r), hA, hB⟩
  · rw [transfer_reject hd]
    exact ⟨dir_congr rfl, rfl, rfl⟩

/-- Settles O18: of the two accepted bands, the forward one loads 0 into B, the reverse one 0 into A. -/
theorem reachableWidthsAreAsymmetric : Obligations.ReachableWidthsAreAsymmetric := by
  intro s r d h hd
  refine ⟨_, exec_ready h, ?_⟩
  obtain hfwd | hrev | hrej := bands d
  · obtain ⟨hA, hB⟩ := transfer_widths_forward hfwd r
    refine ⟨iff_of_false (not_not_intro hB) (by omega), by omega, ?_⟩
    rw [hB]
    decide
  · obtain ⟨hA, hB⟩ := transfer_widths_reverse hrev r
    refine ⟨iff_of_true (transfer_dutyB_ne_zero hrev r) hrev, iff_of_false ?_ (by omega), by omega⟩
    rw [hA]
    decide
  · exact absurd hrej hd

/-! ### The last accepted command (R52) -/

/-- What `lastAccepted` tracks, of the router it speaks of: in IN_RESET or ACTIVE as `inReset` says, with the widths of
the `last` accepted command, or `(0, 0)`. -/
structure Router.Follows (inReset : Bool) (last : Option (Duty × Duty)) (r : Router) : Prop where
  phase : r.phase = if inReset then .inReset else .active
  widths : (r.dutyA, r.dutyB) = last.getD (0, 0)

theorem assertReset_follows (r : Router) : r.assertReset.Follows true none := ⟨rfl, rfl⟩

theorem releaseReset_follows (r : Router) : r.releaseReset.Follows false none := ⟨rfl, rfl⟩

/-- A transfer accepts the routed widths, or leaves what was accepted before. -/
theorem Router.Follows.transfer {last : Option (Duty × Duty)} {r : Router} (h : r.Follows false last) (d : Int) :
    (r.transfer d).Follows false ((route d).or last) := by
  obtain ⟨-, hphase, -⟩ := transfer_keeps d r
  refine ⟨hphase.trans h.phase, ?_⟩
  rw [transfer_widths_getD, h.widths]
  cases route d <;> rfl

/-- One step of a router in IN_RESET or ACTIVE runs, and does to its widths what it does to `lastAccepted`. -/
theorem drivePort_follows {s : State} {r : Router} {p : PortIn} {inReset : Bool} {last : Option (Duty × Duty)}
    (h : s.At r) (hr : r.Follows inReset last) (hn : p.cmdDuty < 2 ^ r.cfg.cmdW) :
    ∃ r' inReset' last', drivePort p s = .next (s.steppedTo r') ∧ r'.cfg = r.cfg ∧ r'.Follows inReset' last' ∧
      ∀ ps, lastAccepted r.cfg.cmdW inReset last (p :: ps) = lastAccepted r.cfg.cmdW inReset' last' ps := by
  cases hp : p.rst with
  | true =>
    exact ⟨_, _, _, drivePort_reset h hp, rfl, assertReset_follows r, fun ps => by simp [lastAccepted, hp]⟩
  | false =>
    cases inReset with
    | true =>
      exact ⟨_, _, _, drivePort_release h hr.phase hp fun _ => hn, rfl, releaseReset_follows r,
        fun ps => by simp [lastAccepted, hp]⟩
    | false =>
      cases hv : p.cmdValid with
      | true =>
        exact ⟨_, _, _, drivePort_transfer h hr.phase hp hv hn, (transfer_keeps _ r).1, hr.transfer _,
          fun ps => by simp [lastAccepted, PortIn.commanded, hp, hv]⟩
      | false =>
        refine ⟨{ r with beat := none }, false, last, ?_, rfl, ⟨hr.phase, hr.widths⟩,
          fun ps => by simp [lastAccepted, PortIn.commanded, hp, hv]⟩
        rw [drivePort_quiet h hp hv, quiet_active hr.phase]

/-- A run goes on from where its first step leads. -/
theorem driveAll_cons_next {inst : Nat} {p : PortIn} {s t : State} (h : drivePort p (s.select inst) = .next t)
    (ps : List PortIn) : driveAll inst (p :: ps) s = driveAll inst ps t := by
  simp [driveAll, h]

/-- A run of a router in IN_RESET or ACTIVE completes, with the widths of the last accepted command. -/
theorem driveAll_lastAccepted {inst : Nat} (ps : List PortIn) :
    ∀ {s : State} {r : Router} {inReset : Bool} {last : Option (Duty × Duty)}, s.configOk = true →
      s.routers[inst]? = some r → r.Follows inReset last → (∀ p ∈ ps, p.cmdDuty < 2 ^ r.cfg.cmdW) →
      ∃ (t : State) (r' : Router), driveAll inst ps s = .next t ∧ t.routers[inst]? = some r' ∧
        (r'.dutyA, r'.dutyB) = (lastAccepted r.cfg.cmdW inReset last ps).getD (0, 0) := by
  induction ps with
  | nil => exact fun _ hs hr _ => ⟨_, _, rfl, hs, hr.widths⟩
  | cons p ps ih =>
    intro s r inReset last hc hs hr hps
    rw [List.forall_mem_cons] at hps
    obtain ⟨hn, hps⟩ := hps
    obtain ⟨r₁, inReset₁, last₁, hstep, hcfg, hr₁, hlast⟩ := drivePort_follows (at_select hc hs) hr hn
    rw [driveAll_cons_next hstep, hlast, ← hcfg]
    exact ih (configOk_select_steppedTo hc hs hcfg) (routers_select_steppedTo hs) hr₁ (hcfg ▸ hps)

/-- Settles O51: after the first release nothing has been accepted, and the run goes on from there. -/
theorem lastAcceptedCommandDecides : Obligations.LastAcceptedCommandDecides := by
  intro p₀ ps s r inst hc hs hi hp₀ hps
  rw [List.forall_mem_cons] at hps
  obtain ⟨hn, hps⟩ := hps
  rw [driveAll_cons_next (drivePort_release (at_select hc hs) hi hp₀ fun _ => hn)]
  exact driveAll_lastAccepted (r := r.releaseReset) ps
    (configOk_select_steppedTo hc hs (Router.releaseReset_cfg r)) (routers_select_steppedTo hs)
    (releaseReset_follows r) hps

end Sys2Proof.Machine
end

section
/-! PROOFS. The family 41_channel_mux: the gate equations (R53), what each step does to the channels and the enable line
(R55, R60), the waves of the pins (R56, R58), and that the two pins are kept apart (R57). -/

namespace Sys2Proof.Machine

/-! ### The two pins are kept apart (R57) -/

/-- Two channels of one `PWM_UPDATE` that follow their inputs together: if one of the new widths is 0 and one of the
applied widths was, one of the applied widths is again. -/
theorem Channel.follow_apart {a b : Duty} {cA cB : Channel} (hnew : a = 0 ∨ b = 0)
    (h : cA.applied = 0 ∨ cB.applied = 0) (u : PwmUpdate) (movedA movedB : Bool) :
    (cA.follow u movedA a).applied = 0 ∨ (cB.follow u movedB b).applied = 0 := by
  cases u with
  | immediate => exact hnew
  | periodBoundary => exact h

/-- A written channel applies what it would by following its input. -/
theorem Channel.write_applied (u : PwmUpdate) (old new : Duty) (c : Channel) :
    (c.write u old new).applied = (c.follow u (decide (new ≠ old)) new).applied := rfl

theorem Router.PinsApart.assertReset {r : Router} (h : r.PinsApart) : r.assertReset.PinsApart := by
  refine ⟨assertReset_inv r, by simp, fun hu => ?_⟩
  simp only [assertReset_cfg, assertReset_chanA, assertReset_chanB] at hu ⊢
  rw [hu]
  exact Channel.follow_apart (.inl rfl) (h.apart hu) _ _ _

/-- An accepted transfer writes both channels with widths of which one is 0, and a rejected one writes neither. -/
theorem Router.PinsApart.transfer {r : Router} (h : r.PinsApart) (ha : r.phase = .active) (d : Int) :
    (r.transfer d).PinsApart := by
  obtain ⟨hcfg, hphase, -⟩ := transfer_keeps d r
  refine ⟨h.inv.transfer ha d, hphase ▸ h.started, fun hu => ?_⟩
  rw [hcfg] at hu
  cases hr : route d with
  | some ab =>
    obtain ⟨a, b⟩ := ab
    rw [transfer_accept hr]
    simp only [Channel.write_applied, hu]
    exact Channel.follow_apart (route_exclusive hr) (h.apart hu) _ _ _
  | none =>
    rw [transfer_reject (route_none.1 hr)]
    exact h.apart hu

/-- Every move of a router keeps its pins apart. -/
theorem Router.PinsApart.moves {p : PortIn} {r r' : Router} (h : r.PinsApart) (hm : Router.Moves p r r') :
    r'.PinsApart := by
  have hinv := h.inv.moves hm
  cases hm with
  | assertReset => exact h.assertReset
  | releaseReset => exact ⟨hinv, by simp, h.apart⟩
  | idlePowerUp => exact h
  | idleActive => exact ⟨hinv, h.started, h.apart⟩
  | transfer _ _ ha _ => exact h.transfer ha _

/-- From the end of a period the channels apply the registers, which are exclusive. -/
theorem Router.PinsApart.endPeriod {r : Router} (h : r.PinsApart) : r.endPeriod.PinsApart :=
  ⟨h.inv.congr rfl rfl rfl rfl, h.started, fun _ => h.inv.exclusive h.started⟩

/-- Settles O57: every move, and the end of a period, keeps the pins of a router apart. -/
theorem equalUpdateKeepsPinsApart : Obligations.EqualUpdateKeepsPinsApart := fun _ _ hs h =>
  step_keeps (fun _ _ _ hr hm => hr.moves hm) (fun _ hr => hr.endPeriod) hs h

/-- In a clean period a pin whose channel applies 0 is low, so two channels of which one does leave one pin low. -/
theorem pins_exclusive_of_applied {r : Router} (hA : r.chanA.disturbed = false) (hB : r.chanB.disturbed = false)
    (h : r.chanA.applied = 0 ∨ r.chanB.applied = 0) (inst pos : Nat) :
    (∀ k, r.pinHigh inst pos .a k = false) ∨ (∀ k, r.pinHigh inst pos .b k = false) :=
  h.imp (fun h0 k => pinHigh_of_applied_zero (leg := .a) hA h0 inst pos k)
    (fun h0 k => pinHigh_of_applied_zero (leg := .b) hB h0 inst pos k)

/-- The channels of a settled router under the invariants apply its exclusive widths. -/
theorem Router.settled.apart {r : Router} (h : r.settled) (hinv : r.Inv) (hp : r.phase ≠ .powerUp) :
    r.chanA.applied = 0 ∨ r.chanB.applied = 0 := by
  obtain ⟨hA, hB⟩ := h
  rw [hA, hB]
  exact hinv.exclusive hp

/-- Settles O55: in each of the three cases one of the applied widths is 0. -/
theorem settledPinsAreExclusive : Obligations.SettledPinsAreExclusive := by
  intro r inst pos hA hB h
  refine pins_exclusive_of_applied hA hB ?_ inst pos
  obtain ⟨hinv, hp, hsettled⟩ | ⟨hlog, hmem⟩ | ⟨hpins, hu⟩ := h
  · exact hsettled.apart hinv hp
  · exact logWhole_commit_exclusive hlog (mem_commitHistory.1 hmem)
  · exact hpins.apart hu

/-! ### What each step does to the channels and the enable line (R55, R60) -/

/-- Settles O10: the channels of `Router.transfer`, by the band and then by `PWM_UPDATE`. -/
theorem commandDrivesItsChannels : Obligations.CommandDrivesItsChannels := by
  intro s r d h
  refine ⟨_, exec_ready h, fun leg => ⟨fun hd => transfer_channel_reject hd r leg, fun hd => ?_⟩⟩
  obtain ⟨a, b, hroute⟩ := route_of_not_reject hd
  have hwrite := transfer_channel_accept hroute r leg
  refine ⟨hwrite, fun hu => ?_, fun hu => ?_⟩
  · rw [hwrite, hu, Channel.write_immediate]
    exact ⟨rfl, rfl⟩
  · rw [hwrite, hu, Channel.write_periodBoundary]
    simp [or_assoc]

theorem releaseReset_channel (r : Router) (leg : Leg) : r.releaseReset.channel leg = r.channel leg := by
  cases leg <;> rfl

/-- A step with `rst = 0` and no command drives no channel, in any phase. -/
theorem quiet_channel (r : Router) (leg : Leg) : r.quiet.channel leg = r.channel leg := by
  unfold Router.quiet
  split
  · rfl
  · exact releaseReset_channel r leg
  · cases leg <;> rfl

/-- Settles O28: the channels of `assertReset`, `releaseReset` and `quiet`. -/
theorem hostStepsDriveTheChannels : Obligations.HostStepsDriveTheChannels := by
  intro s r p h hcase hn
  cases hp : p.rst with
  | true =>
    refine ⟨_, drivePort_reset h hp, fun leg => ⟨by simp, fun _ => ?_⟩⟩
    have hfollow := assertReset_channel r leg
    refine ⟨hfollow, fun hu => ?_, fun hu => ?_⟩
    · rw [hfollow, hu, Channel.follow_immediate]
      simp
    · rw [hfollow, hu, Channel.follow_periodBoundary]
  | false =>
    obtain hrst | hi | hv := hcase
    · simp [hp] at hrst
    · exact ⟨_, drivePort_release h hi hp (hn hp), fun leg => ⟨fun _ => releaseReset_channel r leg, by simp⟩⟩
    · exact ⟨_, drivePort_quiet h hp hv, fun leg => ⟨fun _ => quiet_channel r leg, by simp⟩⟩

/-- A move with `rst = 0` leaves a raised enable line raised (R59, R60). -/
theorem moves_en {p : PortIn} {r r' : Router} (hm : Router.Moves p r r') (hp : p.rst = false) (hen : r.en = true) :
    r'.en = true := by
  cases hm with
  | assertReset hrst => simp [hp] at hrst
  | releaseReset => rfl
  | idlePowerUp | idleActive => exact hen
  | transfer =>
    obtain ⟨-, -, hkeeps⟩ := transfer_keeps (operandOf (BitVec.ofNat r.cfg.cmdW p.cmdDuty)) r
    exact hkeeps.trans hen

/-- Settles O49: of all that a step can do to a router, only the reset move lowers its enable line. -/
theorem onlyResetLowersEnable : Obligations.OnlyResetLowersEnable := by
  intro s t k r r' h hr hr' hen hlow
  obtain ⟨r'', hr'', hwhat⟩ := step_instance h hr
  obtain rfl : r' = r'' := Option.some.inj (hr'.symm.trans hr'')
  obtain rfl | ⟨p, ha, hm⟩ | rfl := hwhat
  · simp [hen] at hlow
  · refine ⟨p, ha, ?_⟩
    by_contra hp
    simp [moves_en hm (by simpa using hp) hen] at hlow
  · simp [hen] at hlow

/-- A period's end leaves a router settled if it is of the router's timer, and as it was if not. -/
theorem endPeriod_routers_getElem? {s : State} {k : Nat} {r : Router} (hr : s.routers[k]? = some r) (tm : Nat) :
    (s.endPeriod tm).routers[k]? = some (if r.cfg.timer = tm then r.endPeriod else r) := by
  simp [hr]

theorem endPeriod_settled (r : Router) : r.endPeriod.settled := ⟨rfl, rfl⟩

/-- Settles O56: the step ends the period, and then by whether the timer is the router's. -/
theorem periodEndSettlesItsInstances : Obligations.PeriodEndSettlesItsInstances := by
  intro s tm k r hc ha hr
  refine ⟨_, _, (step_of_action ha).trans (guarded_ok hc _), endPeriod_routers_getElem? hr tm, ?_⟩
  split
  · exact ⟨fun _ => endPeriod_settled r, fun hne => absurd ‹_› hne, rfl, rfl, rfl, rfl, rfl, rfl⟩
  · exact ⟨fun htm => absurd htm ‹_›, fun _ => rfl, rfl, rfl, rfl, rfl, rfl, rfl⟩

/-! ### The gate equations (R53) -/

section GateEquations

variable {W : Nat} (hW : 8 ≤ W) (w : BitVec W)
include hW

/-- The sign bit says whether a word is its own integer, or `2^W` above it. From 8 bits on, it lies above the forward
band. -/
theorem msb_halves : 128 ≤ 2 ^ (W - 1) ∧ 2 ^ W = 2 * 2 ^ (W - 1) ∧
    (w.msb = false ∧ w.toNat < 2 ^ (W - 1) ∧ w.toInt = w.toNat ∨
      w.msb = true ∧ 2 ^ (W - 1) ≤ w.toNat ∧ w.toInt = (w.toNat : Int) - (2 ^ W : Nat)) := by
  have h := operandOf_halves hW w.isLt
  rw [BitVec.ofNat_toNat, BitVec.setWidth_eq, operandOf] at h
  obtain ⟨hP, h2, ⟨hlo, hd⟩ | ⟨hhi, hd⟩⟩ := h
  · exact ⟨hP, h2, .inl ⟨by simpa [BitVec.msb_eq_decide] using hlo, hlo, hd⟩⟩
  · exact ⟨hP, h2, .inr ⟨by simpa [BitVec.msb_eq_decide] using hhi, hhi, hd⟩⟩

theorem gates_fwdOk : (gates w).fwdOk = true ↔ Forward w.toInt := by
  have hgate : (gates w).fwdOk = (!w.msb && decide (w.toNat ≤ 100)) := rfl
  obtain ⟨hP, h2, ⟨hmsb, hlo, hd⟩ | ⟨hmsb, hhi, hd⟩⟩ := msb_halves hW w
  · rw [hgate, hmsb, hd, Bool.not_false, Bool.true_and, decide_eq_true_eq]
    omega
  · rw [hgate, hmsb, hd]
    exact iff_of_false (by simp) (by omega)

theorem gates_revOk : (gates w).revOk = true ↔ Reverse w.toInt := by
  have hgate : (gates w).revOk = (w.msb && decide (2 ^ W - 99 ≤ w.toNat)) := rfl
  obtain ⟨hP, h2, ⟨hmsb, hlo, hd⟩ | ⟨hmsb, hhi, hd⟩⟩ := msb_halves hW w
  · rw [hgate, hmsb, hd]
    exact iff_of_false (by simp) (by omega)
  · rw [hgate, hmsb, hd, Bool.true_and, decide_eq_true_eq]
    omega

/-- The gates accept what is not in the reject band. -/
theorem gates_accept : (gates w).accept = true ↔ ¬ Reject w.toInt := by
  have hgate : (gates w).accept = ((gates w).fwdOk || (gates w).revOk) := rfl
  rw [hgate, Bool.or_eq_true, gates_fwdOk hW, gates_revOk hW]
  omega

theorem gates_oor : (gates w).oor = outOfRange w.toInt := by
  have hgate : (gates w).oor = !(gates w).accept := rfl
  rw [hgate, Bool.eq_iff_iff, Bool.not_eq_true', ← Bool.not_eq_true, gates_accept hW, not_not, outOfRange_iff]

/-- The gates give a forward word to channel A as it is (R42). -/
theorem gates_forward (h : Forward w.toInt) : (gates w).mag = BitVec.ofNat 7 w.toInt.toNat ∧
    (gates w).dutyA = (gates w).mag ∧ (gates w).dutyB = 0 := by
  have hrev : ¬ (gates w).revOk = true := by
    rw [gates_revOk hW]
    omega
  have hmag : (gates w).mag = BitVec.ofNat 7 w.toNat := if_neg hrev
  obtain ⟨-, -, ⟨-, -, hd⟩ | ⟨-, -, hd⟩⟩ := msb_halves hW w
  · exact ⟨by rw [hmag, hd, Int.toNat_natCast], if_neg hrev, if_neg hrev⟩
  · have := w.isLt
    omega

/-- The gates give a reverse word to channel B by its absolute value, `2^W` less the word (R43). -/
theorem gates_reverse (h : Reverse w.toInt) : (gates w).mag = BitVec.ofNat 7 (-w.toInt).toNat ∧
    (gates w).dutyA = 0 ∧ (gates w).dutyB = (gates w).mag := by
  have hrev := (gates_revOk hW w).2 h
  have hmag : (gates w).mag = BitVec.ofNat 7 (2 ^ W - w.toNat) := if_pos hrev
  refine ⟨?_, if_pos hrev, if_pos hrev⟩
  rw [hmag]
  obtain ⟨-, -, ⟨-, -, hd⟩ | ⟨-, -, hd⟩⟩ := msb_halves hW w
  · omega
  · congr 1
    omega

/-- The magnitude of an accepted word is the absolute value of its integer, undiminished by the 7 bits of a width. -/
theorem gates_mag (h : (gates w).accept = true) : (gates w).mag.toNat = w.toInt.natAbs := by
  rw [gates_accept hW] at h
  obtain hd | hd | hd := bands w.toInt
  · obtain ⟨hmag, -⟩ := gates_forward hW w hd
    rw [hmag, BitVec.toNat_ofNat]
    omega
  · obtain ⟨hmag, -⟩ := gates_reverse hW w hd
    rw [hmag, BitVec.toNat_ofNat]
    omega
  · exact absurd hd h

/-- The routing rule loads the gates' register inputs, band by band. -/
theorem route_eq_gates :
    route w.toInt = if (gates w).accept then some ((gates w).dutyA, (gates w).dutyB) else none := by
  obtain hd | hd | hd := bands w.toInt
  · obtain ⟨hmag, hA, hB⟩ := gates_forward hW w hd
    rw [if_pos ((gates_accept hW w).2 (by omega)), route_forward hd, hA, hB, hmag]
  · obtain ⟨hmag, hA, hB⟩ := gates_reverse hW w hd
    rw [if_pos ((gates_accept hW w).2 (by omega)), route_reverse hd, hA, hB, hmag]
  · rw [if_neg (fun ha => (gates_accept hW w).1 ha hd), route_reject hd]

end GateEquations

/-- Settles O19, signal by signal. -/
theorem gatesAgreeWithRouting : Obligations.GatesAgreeWithRouting := fun _ w hW =>
  ⟨rfl, gates_oor hW w, gates_fwdOk hW w, gates_revOk hW w, gates_mag hW w, route_eq_gates hW w⟩

/-- Settles O20: the step is the transfer of the word's operand, which the routing rule and the gates agree on. -/
theorem presentedWordLoadsTheGates : Obligations.PresentedWordLoadsTheGates := by
  intro s r w h ha
  have hrun : presentWord w.toNat s = .next (s.steppedTo (r.transfer (operandOf w))) :=
    (presentWord_of_decode h.current (decode_toNat w)).trans (exec_ready (h.ready ha w))
  have hwidths := transfer_widths_getD (operandOf w) r
  rw [operandOf, route_eq_gates h.cmdW_ge] at hwidths
  refine ⟨_, hrun, ?_⟩
  split_ifs at hwidths ⊢ <;> exact Prod.mk.inj hwidths

/-! ### The waves of the pins, and the timer's period (R56, R58) -/

/-- How many of the first `n` numbers lie from `a` up to `b`. -/
theorem countP_range_between (a b n : Nat) :
    (List.range n).countP (fun k => decide (a ≤ k) && decide (k < b)) = min b n - a := by
  induction n with
  | zero => simp
  | succ n ih =>
    rw [List.range_succ, List.countP_append, ih, List.countP_singleton]
    simp only [Bool.and_eq_true, decide_eq_true_eq]
    split <;> omega

/-- In either alignment the high slots of a clean period follow one another. -/
theorem waveHigh_between (align : PwmAlign) {p : Nat} (hp : p ≤ 100) :
    ∃ a b, b ≤ 200 ∧ b - a = 2 * p ∧ waveHigh align p = fun k => decide (a ≤ k) && decide (k < b) := by
  cases align with
  | edge => exact ⟨0, 2 * p, by omega, by omega, by funext k; simp [waveHigh]⟩
  | centre => exact ⟨100 - p, 100 + p, by omega, by omega, rfl⟩

theorem highSlots_eq (align : PwmAlign) {p : Nat} (hp : p ≤ 100) : highSlots align p = 2 * p := by
  obtain ⟨a, b, hb, hlen, hwave⟩ := waveHigh_between align hp
  rw [highSlots, hwave, countP_range_between, Nat.min_eq_left hb, hlen]

theorem waveHigh_full (align : PwmAlign) {k : Nat} (hk : k < 200) : waveHigh align 100 k = true := by
  cases align with
  | edge => exact decide_eq_true hk
  | centre => simpa [waveHigh] using hk

/-- Settles O52, by the high slots being consecutive. -/
theorem cleanPeriodIsHighForItsShare : Obligations.CleanPeriodIsHighForItsShare := by
  intro align p hp
  refine ⟨highSlots_eq align hp, fun h0 k => ?_, fun h100 k hk => ?_⟩
  · rw [h0, waveHigh_zero]
  · rw [h100, waveHigh_full align hk]

/-- In a clean period the pin is the wave of the applied width. -/
theorem pinHigh_clean {r : Router} {leg : Leg} (hd : (r.channel leg).disturbed = false)
    (hle : (r.channel leg).applied.toNat ≤ 100) (inst pos : Nat) :
    r.pinHigh inst pos leg = waveHigh r.cfg.align (r.channel leg).applied.toNat := by
  funext k
  rw [Router.pinHigh, if_neg (by simp [hd, hle])]

/-- Settles O53: the pin is its wave, whose high slots are two for each percent of the applied width. -/
theorem highTimeIsTheShareOfThePeriod : Obligations.HighTimeIsTheShareOfThePeriod := by
  intro r leg hle
  refine ⟨fun hd inst pos => ?_, ?_⟩
  · have hpin := pinHigh_clean hd hle inst pos
    refine ⟨congrFun hpin, ?_⟩
    rw [hpin]
    exact highSlots_eq _ hle
  · rw [Router.highTime, highSlots_eq _ hle]
    push_cast
    ring

/-- Settles O54: one timer has one frequency, whose inverse the period is. -/
theorem sharedTimerSharesItsPeriod : Obligations.SharedTimerSharesItsPeriod := by
  intro s j k r r' hc hj hk ht
  by_cases hjk : j = k
  · subst hjk
    obtain rfl : r = r' := Option.some.inj (hj.symm.trans hk)
    rfl
  · obtain ⟨hfreq, -⟩ := configOk_sameTimer hc hj hk hjk ht
    rw [Config.period, hfreq, Config.period]

end Sys2Proof.Machine
end

section
/-! PROOFS. The family 60_exceptions: the one error is an event of the stream (R62), which grows by whole transfers and by
nothing else (R61, R63), a step of one router leaves every other alone (R71), and past the host's list all is held
(R73). -/

namespace Sys2Proof.Machine

/-! ### Every log is a sequence of whole transfers (R63) -/

theorem logWhole_transferEvents (d : Int) : logWhole (transferEvents d) := by
  unfold transferEvents
  split
  · exact ⟨‹_›, trivial⟩
  · exact ⟨‹_›, trivial⟩

/-- Whole transfers after whole transfers are whole: the induction takes one transfer, two events, at a time. -/
theorem logWhole_append : ∀ {es fs : List Event}, logWhole es → logWhole fs → logWhole (es ++ fs)
  | [], _, _, hf => hf
  | .cmd _ :: .commit _ _ :: _, _, ⟨hroute, hrest⟩, hf => ⟨hroute, logWhole_append hrest hf⟩
  | .cmd _ :: .outOfRange :: _, _, ⟨hroute, hrest⟩, hf => ⟨hroute, logWhole_append hrest hf⟩
  | [.cmd _], _, h, _ => h.elim
  | .cmd _ :: .cmd _ :: _, _, h, _ => h.elim
  | .outOfRange :: _, _, h, _ => h.elim
  | .commit _ _ :: _, _, h, _ => h.elim

/-- Every move of a router keeps its log whole: only the transfer writes it. -/
theorem logWhole_moves {p : PortIn} {r r' : Router} (h : logWhole r.log) (hm : Router.Moves p r r') :
    logWhole r'.log := by
  cases hm with
  | assertReset | releaseReset | idlePowerUp | idleActive => exact h
  | transfer =>
    rw [transfer_log]
    exact logWhole_append h (logWhole_transferEvents _)

/-- Settles O46: every move keeps the log whole, and a period's end does not write it. -/
theorem stepKeepsTheLogsWhole : Obligations.StepKeepsTheLogsWhole := fun _ _ hs h =>
  step_keeps (fun _ _ _ hr hm => logWhole_moves hr hm) (fun _ hr => hr) hs h

/-- At power-on nothing has been logged. -/
theorem log_of_mem_powerUp {cfgs : List Config} {script : List HostAction} {r : Router}
    (h : r ∈ (State.powerUp cfgs script).routers) : r.log = [] := by
  obtain ⟨_, _, rfl⟩ := List.mem_mapIdx.1 h
  rfl

/-- Settles O45: every log is empty there. -/
theorem logsAreWholeAtResetAndPowerUp : Obligations.LogsAreWholeAtResetAndPowerUp := by
  refine ⟨fun r hr => ?_, fun cfgs script r hr => ?_⟩
  · obtain rfl := mem_reset_routers.1 hr
    exact trivial
  · rw [log_of_mem_powerUp hr]
    exact trivial

/-! ### A step of one router (R71), and none (R73) -/

/-- If a drive action answers a next state, its router has made one of its moves, and nothing else has changed. -/
theorem step_drive_next {s t : State} {inst : Nat} {p : PortIn} (ha : s.script[s.pos]? = some (.drive inst p))
    (h : step s = .next t) :
    ∃ r r', s.routers[inst]? = some r ∧ Router.Moves p r r' ∧ t = (s.select inst).steppedTo r' := by
  obtain ⟨r, r', hat, hm, ht⟩ := drivePort_next ((step_of_action ha).symm.trans h)
  exact ⟨r, r', hat.current, hm, ht⟩

/-- Settles O50: the step writes the router at `inst` only. -/
theorem otherInstancesAreUntouched : Obligations.OtherInstancesAreUntouched := by
  intro s t inst k p ha h hk
  obtain ⟨r, r', -, -, rfl⟩ := step_drive_next ha h
  exact List.getElem?_set_ne hk.symm

/-- Settles O37: past the end of the list `step` is `holdAll`, which only counts on. -/
theorem listUsedUpHoldsAll : Obligations.ListUsedUpHoldsAll := by
  intro s hc hend
  calc step s = holdAll s := by simp [step, stepHost, hend]
    _ = .next s.advance := guarded_ok hc _

/-! ### Only transfers append events (R61, R9) -/

theorem transferEvents_ne_nil (d : Int) : transferEvents d ≠ [] := by
  unfold transferEvents
  split <;> simp

theorem not_transfers_of_rst {p : PortIn} (h : p.rst = true) (inst : Nat) (r : Router) : ¬ transfers inst p r := by
  simp [transfers, h]

theorem not_transfers_of_inReset {p : PortIn} {r : Router} (hp : p.rst = false) (hi : r.phase = .inReset)
    (inst : Nat) : ¬ transfers inst p r := by
  simp [transfers, hp, cmdReady_inReset hi]

theorem not_transfers_of_quiet {p : PortIn} (h : p.cmdValid = false) (inst : Nat) (r : Router) :
    ¬ transfers inst p r := by
  simp [transfers, h]

theorem transfers_of_active {p : PortIn} {r : Router} (hp : p.rst = false) (hv : p.cmdValid = true)
    (ha : r.phase = .active) (inst : Nat) : transfers inst p r :=
  ⟨hv, hp ▸ cmdReady_active ha inst⟩

/-- A move appends events to the log exactly if it takes a transfer: in POWERUP, where `cmd_ready` may be 1, no move
presents a command (R76). -/
theorem moves_log {p : PortIn} {r r' : Router} (hm : Router.Moves p r r') (inst : Nat) :
    ∃ es, r'.log = r.log ++ es ∧ (es ≠ [] ↔ transfers inst p r) := by
  have hkept (h : ¬ transfers inst p r) : ∃ es, r.log = r.log ++ es ∧ (es ≠ [] ↔ transfers inst p r) :=
    ⟨[], (List.append_nil _).symm, iff_of_false (not_not_intro rfl) h⟩
  cases hm with
  | assertReset hrst => exact hkept (not_transfers_of_rst hrst inst r)
  | releaseReset hrst hi => exact hkept (not_transfers_of_inReset hrst hi inst)
  | idlePowerUp _ hv | idleActive _ hv => exact hkept (not_transfers_of_quiet hv inst r)
  | transfer hrst hv ha =>
    exact ⟨_, transfer_log _ r, iff_of_true (transferEvents_ne_nil _) (transfers_of_active hrst hv ha inst)⟩

/-- A step whose action does not drive a router leaves its log as it was. -/
theorem step_log_of_not_driven {s t : State} (h : step s = .next t) {k : Nat} {r : Router}
    (hr : s.routers[k]? = some r) (hk : ∀ p, s.script[s.pos]? ≠ some (.drive k p)) :
    ∃ r', t.routers[k]? = some r' ∧ r'.log = r.log := by
  obtain ⟨r', hr', rfl | ⟨p, ha, -⟩ | rfl⟩ := step_instance h hr
  · exact ⟨_, hr', rfl⟩
  · exact absurd ha (hk p)
  · exact ⟨_, hr', rfl⟩

/-- Settles O47, by whether the step's action drives the router: then its log grows as the move says, else not at
all. -/
theorem onlyTransfersAppendEvents : Obligations.OnlyTransfersAppendEvents := by
  intro s t k r h hr
  by_cases hk : ∃ p, s.script[s.pos]? = some (.drive k p)
  · obtain ⟨p, ha⟩ := hk
    obtain ⟨r₀, r', hr₀, hm, rfl⟩ := step_drive_next ha h
    obtain rfl : r = r₀ := Option.some.inj (hr.symm.trans hr₀)
    obtain ⟨es, hlog, hes⟩ := moves_log hm k
    refine ⟨r', es, routers_select_steppedTo hr, hlog, ?_⟩
    simp [hes, ha]
  · obtain ⟨r', hr', hlog⟩ := step_log_of_not_driven h hr (not_exists.1 hk)
    refine ⟨r', [], hr', by rw [hlog, List.append_nil], iff_of_false (not_not_intro rfl) ?_⟩
    rintro ⟨p, ha, -⟩
    exact hk ⟨p, ha⟩

/-! ### The range error (R62) -/

/-- The events of a transfer report the range error exactly in the reject band. -/
theorem transferEvents_eq_outOfRange_iff {d : Int} : transferEvents d = [.cmd d, .outOfRange] ↔ Reject d := by
  rw [← route_none, transferEvents]
  split <;> simp [*]

/-- Settles O12: the beat's flag is `outOfRange d`, the log grows by `transferEvents d`, and a rejected transfer writes
no register. -/
theorem rangeErrorExactlyOutOfRange : Obligations.RangeErrorExactlyOutOfRange := by
  intro s r d h
  refine ⟨_, _, exec_ready h, transfer_beat d r, outOfRange_iff, ?_, fun hd => ?_⟩
  · rw [transfer_log, List.append_cancel_left_eq, transferEvents_eq_outOfRange_iff]
  · rw [transfer_reject hd]
    exact ⟨rfl, rfl, rfl, rfl⟩

end Sys2Proof.Machine
end

section
/-! PROOFS. The family 70_reset_and_hazards: reset, release and construction again (R74 to R77), that idle steps hold a
router (R84), and the overlap of the two pins where the channels' `PWM_UPDATE` differ (R80). -/

namespace Sys2Proof.Machine

/-! ### A command outside ACTIVE (R75, R76) -/

theorem present_powerUp {d : Int} {r : Router} (hf : fits r.cfg.cmdW d = true) (hp : r.phase = .powerUp) :
    r.present d = .error .commandInPowerUp := by simp [Router.present, hf, hp]

/-- Settles O21: presenting the command is refused, and so is the step. -/
theorem commandInPowerUpIsRefused : Obligations.CommandInPowerUpIsRefused := fun _ _ _ h hp hf =>
  onCurrent_error h (present_powerUp hf hp)

/-- Settles O22: presenting the command is the release. -/
theorem commandInResetIsNotTaken : Obligations.CommandInResetIsNotTaken := fun _ _ _ h hi hf =>
  ⟨_, onCurrent_ok h (present_inReset hf hi), rfl, rfl, rfl, rfl, rfl, rfl, rfl⟩

/-! ### Reset, release and idle steps (R74, R75, R84) -/

/-- Settles O25: the step is `assertReset`, whatever the phase and the command inputs. -/
theorem resetStepClearsTheInstance : Obligations.ResetStepClearsTheInstance := fun _ _ _ h hp =>
  ⟨_, drivePort_reset h hp, rfl, rfl, rfl, rfl, rfl, rfl, rfl⟩

/-- Settles O26: the step is `releaseReset`, whatever the command inputs, and it leaves the router ACTIVE. -/
theorem releaseStepConstructs : Obligations.ReleaseStepConstructs := fun _ _ _ h hi hp hn =>
  ⟨_, drivePort_release h hi hp fun _ => hn, rfl, rfl, rfl, rfl, rfl, rfl, rfl, cmdReady_active rfl⟩

theorem quiet_powerUp {r : Router} (h : r.phase = .powerUp) : r.quiet = r := by
  simp [Router.quiet, h]

/-- Settles O27: in POWERUP the step keeps the whole router, in ACTIVE all but the beat, and in IN_RESET it is the
release. -/
theorem idleStepChangesNothing : Obligations.IdleStepChangesNothing := by
  intro s r p h hp hv
  refine ⟨_, drivePort_quiet h hp hv, ?_⟩
  cases hph : r.phase with
  | powerUp =>
    rw [quiet_powerUp hph]
    exact ⟨rfl, rfl, fun _ => ⟨hph, rfl, rfl, rfl⟩, nofun, fun _ => ⟨rfl, fun _ _ => rfl⟩, nofun⟩
  | inReset =>
    rw [quiet_inReset hph]
    exact ⟨rfl, rfl, fun hne => absurd rfl hne, nofun, nofun, fun _ => ⟨rfl, rfl, rfl, rfl⟩⟩
  | active =>
    rw [quiet_active hph]
    exact ⟨rfl, rfl, fun _ => ⟨hph, rfl, rfl, rfl⟩, fun _ => rfl, nofun, nofun⟩

/-! ### The directives without a command (R38, R77, R84) -/

/-- The two steps of `RESET` construct again, from any phase: the second one finds the router in IN_RESET. -/
theorem driveAll_reset {s : State} {r : Router} {inst : Nat} (hc : s.configOk = true)
    (hr : s.routers[inst]? = some r) :
    ∃ t, driveAll inst [PortIn.quiet true, PortIn.quiet false] s = .next t ∧
      t.routers[inst]? = some r.assertReset.releaseReset := by
  have hr₁ : ((s.select inst).steppedTo r.assertReset).routers[inst]? = some r.assertReset :=
    routers_select_steppedTo hr
  have hc₁ := configOk_select_steppedTo hc hr (Router.assertReset_cfg r)
  refine ⟨_, ?_, routers_select_steppedTo hr₁⟩
  rw [driveAll_cons_next (drivePort_reset (at_select hc hr) rfl),
    driveAll_cons_next (drivePort_release (at_select hc₁ hr₁) (Router.assertReset_phase r) rfl
      (by simp [PortIn.quiet])), driveAll]

/-- Settles O29: `RESET` ends in the entry values, and neither of its steps writes the log. -/
theorem resetDirectiveConstructsAgain : Obligations.ResetDirectiveConstructsAgain := by
  intro s r inst hc hr
  obtain ⟨t, hrun, ht⟩ := driveAll_reset hc hr
  exact ⟨_, t, _, rfl, hrun, ht, rfl, rfl, rfl, rfl, dir_of_dutyB_eq_zero rfl, rfl, cmdReady_active rfl, rfl, rfl, rfl⟩

/-- Idle steps of an ACTIVE router, however many, write at most its beat. -/
theorem driveAll_idle_active {inst : Nat} (n : Nat) :
    ∀ {s : State} {r : Router}, s.configOk = true → s.routers[inst]? = some r → r.phase = .active →
      ∃ (t : State) (b : Option Beat), driveAll inst (List.replicate n (PortIn.quiet false)) s = .next t ∧
        t.routers[inst]? = some { r with beat := b } := by
  induction n with
  | zero => exact fun _ hr _ => ⟨_, _, rfl, hr⟩
  | succ n ih =>
    intro s r hc hr ha
    have hstep : drivePort (PortIn.quiet false) (s.select inst) =
        .next ((s.select inst).steppedTo { r with beat := none }) := by
      rw [drivePort_quiet (at_select hc hr) rfl rfl, quiet_active ha]
    rw [List.replicate_succ, driveAll_cons_next hstep]
    exact ih (r := { r with beat := none }) (configOk_select_steppedTo hc hr rfl) (routers_select_steppedTo hr) ha

/-- Settles O30: the assembler's own equations, and the run of `n` idle steps. -/
theorem idleDirectiveHoldsForever : Obligations.IdleDirectiveHoldsForever := by
  refine ⟨fun _ _ => ⟨rfl, rfl, rfl, fun _ => rfl⟩, fun n s r inst hc hr ha => ?_⟩
  obtain ⟨t, b, hrun, ht⟩ := driveAll_idle_active n hc hr ha
  exact ⟨_, t, _, rfl, List.length_replicate, hrun, ht, ha, rfl, rfl, rfl, rfl, rfl, rfl⟩

/-! ### The overlap of unequal `PWM_UPDATE` (R80) -/

/-- Settles O59: of the forward commit `(d, 0)`, A's channel applies `d` at once, and B's keeps what it applied. -/
theorem unequalUpdateAdmitsOverlap : Obligations.UnequalUpdateAdmitsOverlap := by
  intro s r d h hpos hle hA hB _ happlied
  obtain ⟨a, hroute, ha⟩ := route_forward_width ⟨hpos.le, hle⟩
  refine ⟨_, exec_ready h, ?_⟩
  rw [transfer_accept hroute, hA, hB, Channel.write_immediate, Channel.write_periodBoundary]
  exact ⟨rfl, ha, happlied⟩

end Sys2Proof.Machine
end
